-- ==== Sys2Proof/Config.lean ====
section
/-! DEFINITION. The implementation parameters of 00_scope rule R7, each a named constant; the spec leaves no value
free, so this file holds no opaque constant. -/

namespace Sys2Proof

/-- `XLEN` (R7): width of a register, a memory word, a pin value and an ALU result. -/
@[simp] abbrev Config.xlen : Nat := 32

/-- `NREGS` (R7): number of general registers. -/
@[simp] abbrev Config.nregs : Nat := 16

/-- `ADDR_BITS` (R7): width of a bus address. -/
@[simp] abbrev Config.addrBits : Nat := 16

/-- `MEM_WORDS` (R7): words of the Memory Bank, at bus addresses 0 to `memWords - 1`. -/
@[simp] abbrev Config.memWords : Nat := 1024

/-- `GPIO_PINS` (R7): pins of the GPIO Bank. -/
@[simp] abbrev Config.gpioPins : Nat := 16

/-- `GPIO_BASE` (R7): lowest bus address routed to the GPIO Bank. -/
@[simp] abbrev Config.gpioBase : Nat := 0x8000

/-- `DEPTH` (R7): number of pipeline slots. -/
@[simp] abbrev Config.depth : Nat := 4

/-- `EXEC_SLOT` (R7): the slot whose instruction is executed. -/
@[simp] abbrev Config.execSlot : Fin Config.depth := 2

/-- `PROG_CAP` (R7): the greatest program length that has a specified behaviour (R174). -/
@[simp] abbrev Config.progCap : Nat := 1024

/-- `PC_BITS` (R7): width of the program counter. -/
@[simp] abbrev Config.pcBits : Nat := 11

/-- `IW_BITS` (R7): width of a decoded instruction word. -/
@[simp] abbrev Config.iwBits : Nat := 128

/-- What a Memory Bank word that nothing has written reads as: the reset value 0 of 10_state R34. -/
def Config.memReset : BitVec Config.xlen := 0

end Sys2Proof
end

