-- ==== Sys2Proof/Word.lean ====
section
/-! DEFINITION. The machine's words (00_scope R7, R9), each of the width the named constants of Config give it. The
width of the opcode field alone is no parameter of R7: it stands in the format of 30_encoding R70. -/

namespace Sys2Proof

/-- A register, memory word, pin value or ALU result: `XLEN` bits, read signed by `BitVec.toInt` (R9's `sint`). -/
abbrev Word := BitVec Config.xlen

/-- An operand field of the instruction word (30_encoding R70): as wide as a value, because a literal fills it whole
(R74); read unsigned by `BitVec.toNat` (`uint`). -/
abbrev Field := BitVec Config.xlen

/-- The opcode field (R70, R71). -/
abbrev Opcode := BitVec 4

/-- A decoded instruction word, the spec's DIW (R70). -/
abbrev Diw := BitVec Config.iwBits

/-- A bus address (20_memory R50). -/
abbrev BusAddr := BitVec Config.addrBits

/-- The program counter's value (10_state R29). -/
abbrev Pc := BitVec Config.pcBits

/-- The number of a general register (10_state R20). -/
abbrev RegIx := Fin Config.nregs

/-- The number of a GPIO pin (10_state R35). -/
abbrev PinIx := Fin Config.gpioPins

end Sys2Proof
end

