-- ==== Sys2Proof/Syntax.lean ====
section
/-! DEFINITION. The instructions: one constructor per row of spec/opcode_table.json. -/

namespace Sys2Proof

/-- The decoded instruction (00_scope R13, 30_encoding R76): the class, and the operand fields that class USES, each
whole (32 bits), because a register field outside 0..15 is a condition of Execute, not of decoding (R81). The fields
a class does not use are ignored (R72, R75, R77) and stand nowhere here. -/
inductive Instr where
  /-- `LOAD Rd,#imm` (R110): `op1` names the destination, `op2` is the literal. -/
  | loadImmediate (op1 : Field) (op2 : Word)
  /-- `LOAD Rd,Ra` (R111): `op1` names the destination, `op2` the register holding the bus address. -/
  | loadRegister (op1 op2 : Field)
  /-- `STORE Ra,Rv` (R112): `op1` names the register holding the bus address, `op2` the register holding the value. -/
  | store (op1 op2 : Field)
  /-- `ADD Rd,Rs,Rt` (R123). -/
  | add (op1 op2 op3 : Field)
  /-- `MUL Rd,Rs,Rt` (R124). -/
  | mul (op1 op2 op3 : Field)
  /-- `MAC Rd,Rs,Rt` (R125): `op1` is read and written. -/
  | mac (op1 op2 op3 : Field)
  /-- `OUT Rp,Rv` (R130): `op1` names the register holding the pin index, `op2` the register holding the value. -/
  | out (op1 op2 : Field)
  /-- `HALT` (R131). -/
  | halt
  /-- `NOP`, opcode 0: fatal in Execute (R132). -/
  | nop
  /-- `INVALID`, opcode 8: fatal in Execute (R133). -/
  | invalid
  /-- Opcode 9, unassigned: fatal in Execute (R133). -/
  | unassigned9
  /-- Opcodes 10 and 11, unassigned: fatal in Execute (R133). -/
  | unassigned10to11 (opcode : Opcode)
  /-- Opcodes 12 to 15, unassigned: fatal in Execute (R133). -/
  | unassigned12to15 (opcode : Opcode)
  deriving DecidableEq, Repr

end Sys2Proof
end

