-- ==== Sys2Proof/WellFormed.lean ====
section
/-! DEFINITION. Which terms of Instr stand for an instruction word, which of them have legal register fields, and
which of them can let a run go on. -/

namespace Sys2Proof

/-- The term stands for some DIW: the two constructors that cover several opcodes carry one of theirs (30_encoding
R71). Register fields are not looked at: an index outside 0..15 is a legal WORD that stops the run in Execute (R81). -/
def Instr.wellFormed : Instr → Bool
  | .loadImmediate _ _ => true
  | .loadRegister _ _ => true
  | .store _ _ => true
  | .add _ _ _ => true
  | .mul _ _ _ => true
  | .mac _ _ _ => true
  | .out _ _ => true
  | .halt => true
  | .nop => true
  | .invalid => true
  | .unassigned9 => true
  | .unassigned10to11 op => op == 10 || op == 11
  | .unassigned12to15 op => op == 12 || op == 13 || op == 14 || op == 15

/-- The operand fields the instruction uses as register indices, in the order `op1`, `op2`, `op3` (30_encoding R76). -/
def Instr.regFields : Instr → List Field
  | .loadImmediate op1 _ => [op1]
  | .loadRegister op1 op2 => [op1, op2]
  | .store op1 op2 => [op1, op2]
  | .add op1 op2 op3 => [op1, op2, op3]
  | .mul op1 op2 op3 => [op1, op2, op3]
  | .mac op1 op2 op3 => [op1, op2, op3]
  | .out op1 op2 => [op1, op2]
  | .halt => []
  | .nop => []
  | .invalid => []
  | .unassigned9 => []
  | .unassigned10to11 _ => []
  | .unassigned12to15 _ => []

/-- Every used register field is in 0..15 (30_encoding R73, R79). -/
def Instr.regsValid (i : Instr) : Bool :=
  i.regFields.all fun f => f.toNat < Config.nregs

/-- The instruction's opcode (30_encoding R71). -/
def Instr.opcode : Instr → Opcode
  | .loadImmediate _ _ => 1
  | .loadRegister _ _ => 1
  | .store _ _ => 2
  | .add _ _ _ => 3
  | .mul _ _ _ => 4
  | .mac _ _ _ => 5
  | .out _ _ => 6
  | .halt => 7
  | .nop => 0
  | .invalid => 8
  | .unassigned9 => 9
  | .unassigned10to11 op => op
  | .unassigned12to15 op => op

/-- The opcode names an operation the engine performs (30_encoding R71, R78): it is none of NOP, INVALID, 9 to 15. -/
def Instr.opcodeKnown : Instr → Bool
  | .loadImmediate _ _ => true
  | .loadRegister _ _ => true
  | .store _ _ => true
  | .add _ _ _ => true
  | .mul _ _ _ => true
  | .mac _ _ _ => true
  | .out _ _ => true
  | .halt => true
  | .nop => false
  | .invalid => false
  | .unassigned9 => false
  | .unassigned10to11 _ => false
  | .unassigned12to15 _ => false

/-- The instruction does not stop the run when it executes (70_reset R178: "no HALT anywhere", "no NOP, unknown opcode
or bad register index"). -/
def Instr.goesOn (i : Instr) : Bool :=
  i.opcodeKnown && i.regsValid && i != .halt

end Sys2Proof
end

