-- ==== Sys2Proof/Decode.lean ====
section
/-! DEFINITION. The decoder, total on every DIW (30_encoding R81), the encoder, and the opcode table they follow. -/

namespace Sys2Proof

/-- `DIW[3:0]` (30_encoding R70). -/
def diwOpcode (w : Diw) : Opcode := w.extractLsb' 0 4

/-- `DIW[4]`, the record's `immediate` flag (R70, R72). -/
def diwImm (w : Diw) : Bool := w.getLsbD 4

/-- `DIW[63:32]` (R70). -/
def diwOp1 (w : Diw) : Field := w.extractLsb' 32 Config.xlen

/-- `DIW[95:64]` (R70). -/
def diwOp2 (w : Diw) : Field := w.extractLsb' 64 Config.xlen

/-- `DIW[127:96]` (R70). -/
def diwOp3 (w : Diw) : Field := w.extractLsb' 96 Config.xlen

/-- The instruction a record of fields stands for (R71, R76, R94). It refuses no record (R81): an opcode that names no
operation gives an instruction of its own, whose meaning is the fatal stop. -/
def ofFields (op : Opcode) (imm : Bool) (op1 op2 op3 : Field) : Instr :=
  match op with
  | 0 => .nop
  | 1 => if imm then .loadImmediate op1 op2 else .loadRegister op1 op2
  | 2 => .store op1 op2
  | 3 => .add op1 op2 op3
  | 4 => .mul op1 op2 op3
  | 5 => .mac op1 op2 op3
  | 6 => .out op1 op2
  | 7 => .halt
  | 8 => .invalid
  | 9 => .unassigned9
  | 10 => .unassigned10to11 10
  | 11 => .unassigned10to11 11
  | other => .unassigned12to15 other

/-- The instruction a DIW stands for; `rsvd` is not looked at (R75). -/
def decode (w : Diw) : Instr := ofFields (diwOpcode w) (diwImm w) (diwOp1 w) (diwOp2 w) (diwOp3 w)

/-- The instruction read from a word numbered as spec/opcode_table.json numbers it. The one format is a 128-bit word
presented whole, with no byte order (20_memory R61), so laying it out is taking its low `nbits` bits; no instruction
is longer than 128 bits (30_encoding R80). -/
def decodeTableWord (nbits w : Nat) : Option Instr :=
  if nbits ≤ Config.iwBits then some (decode (BitVec.ofNat Config.iwBits (w % 2 ^ nbits))) else none

/-- The DIW with these fields and `rsvd` = 0 (R70, R75). -/
def packDiw (op : Opcode) (imm : Bool) (op1 op2 op3 : Field) : Diw :=
  op3 ++ op2 ++ op1 ++ (0#27 ++ BitVec.ofBool imm ++ op)

/-- The DIW of an instruction, with the fields it does not use written as 0, as the loader writes them (R70, R75,
R77). -/
def encode : Instr → Diw
  | .loadImmediate op1 op2 => packDiw 1 true op1 op2 0
  | .loadRegister op1 op2 => packDiw 1 false op1 op2 0
  | .store op1 op2 => packDiw 2 false op1 op2 0
  | .add op1 op2 op3 => packDiw 3 false op1 op2 op3
  | .mul op1 op2 op3 => packDiw 4 false op1 op2 op3
  | .mac op1 op2 op3 => packDiw 5 false op1 op2 op3
  | .out op1 op2 => packDiw 6 false op1 op2 0
  | .halt => packDiw 7 false 0 0 0
  | .nop => packDiw 0 false 0 0 0
  | .invalid => packDiw 8 false 0 0 0
  | .unassigned9 => packDiw 9 false 0 0 0
  | .unassigned10to11 op => packDiw op false 0 0 0
  | .unassigned12to15 op => packDiw op false 0 0 0

/-- The rows of spec/opcode_table.json in its order: mnemonic, match, mask. -/
def opcodeRows : List (String × Diw × Diw) :=
  [("LOAD__immediate", 0x11, 0x1F),
   ("LOAD__register", 0x01, 0x1F),
   ("STORE", 0x02, 0x0F),
   ("ADD", 0x03, 0x0F),
   ("MUL", 0x04, 0x0F),
   ("MAC", 0x05, 0x0F),
   ("OUT", 0x06, 0x0F),
   ("HALT", 0x07, 0x0F),
   ("NOP__fatal_in_Execute", 0x00, 0x0F),
   ("INVALID__fatal_in_Execute", 0x08, 0x0F),
   ("UNASSIGNED_9__fatal_in_Execute", 0x09, 0x0F),
   ("UNASSIGNED_10-11__fatal_in_Execute", 0x0A, 0x0E),
   ("UNASSIGNED_12-15__fatal_in_Execute", 0x0C, 0x0C)]

/-- The place of an instruction's row in `opcodeRows`. -/
def Instr.row : Instr → Nat
  | .loadImmediate _ _ => 0
  | .loadRegister _ _ => 1
  | .store _ _ => 2
  | .add _ _ _ => 3
  | .mul _ _ _ => 4
  | .mac _ _ _ => 5
  | .out _ _ => 6
  | .halt => 7
  | .nop => 8
  | .invalid => 9
  | .unassigned9 => 10
  | .unassigned10to11 _ => 11
  | .unassigned12to15 _ => 12

end Sys2Proof
end

