-- ==== Sys2Proof/Machine/State.lean ====
section
/-! DEFINITION. The machine's state as plain data (10_state R45), what it can report, the reasons a step can stop, and
the state right after reset (70_reset R170). -/

namespace Sys2Proof.Machine

/-- The Memory Bank as (word address, word) pairs: addresses strictly rising and below `memWords`, and no entry equal
to what an unlisted address reads as (`Memory.wf`). The spec's smallest addressable unit is the 32-bit word and it
forbids a byte layout that a rule reads (20_memory R60, R61), so a cell holds a word; DESIGN CHOICE, log entry 1. -/
abbrev Memory := List (Nat × Word)

/-- Why `running` became false (10_state R33). -/
inductive StopReason where
  /-- Code 0: still running. -/
  | running
  /-- Code 1: HALT executed (43_io_and_control R131). -/
  | halted
  /-- Code 2: the program is exhausted and the pipeline empty (40_pipeline R97). -/
  | drained
  /-- Code 3 (60_exceptions R142). -/
  | faultUnknownOpcode
  /-- Code 4 (60_exceptions R143). -/
  | faultBadRegister
  deriving DecidableEq, Repr

/-- The six conditions of the diagnostic port (60_exceptions R144). -/
inductive DiagCode where
  /-- Code 1: bus read of the gap. -/
  | busReadUnmapped
  /-- Code 2: bus write to the gap. -/
  | busWriteUnmapped
  /-- Code 3: read of a pin outside 0..15. -/
  | gpioReadRange
  /-- Code 4: write of a pin outside 0..15. -/
  | gpioWriteRange
  /-- Code 5: fatal, an opcode that names no operation. -/
  | unknownOpcode
  /-- Code 6: fatal, a used register field outside 0..15. -/
  | badRegister
  deriving DecidableEq, Repr

/-- One event on the diagnostic port (10_state R41). -/
structure Diag where
  code : DiagCode
  info : Word
  deriving DecidableEq, Repr

/-- One pin-change event (10_state R42). -/
structure PinEvent where
  pin : PinIx
  value : Word
  deriving DecidableEq, Repr

/-- The reasons a step faults: there are none. The spec describes every stop of this machine whole (a fatal stop of
60_exceptions R141 is a next state with `running` false), decodes every bus address (20_memory R68) and every word
(30_encoding R81), so nothing raises a fault; that no step ends in one is neither safe nor unsafe, but exact. -/
inductive Fault where
  deriving DecidableEq, Repr

/-- The reasons a step has no meaning. -/
inductive Refusal where
  /-- Raised by an arm of `exec` whose instruction has no meaning yet: by none, every arm has its meaning. Safe. -/
  | notModelled (mnemonic : String)
  /-- Raised by `step`, before any cycle, when the loaded program is longer than `progCap`: such a launch "has no
  specified behaviour (a model refuses it)" (70_reset R174). Safe. -/
  | programTooLong
  deriving DecidableEq, Repr

/-- Everything the spec gives the machine: the core state of 10_state R45, the launch parameters of R36, the `rst`
input of R39 and the event ports of R40 to R42 as the last clock edge left them. -/
structure State where
  /-- The general registers R0 to R15 (R20). -/
  x : Vector Word Config.nregs
  /-- The zero flag Z (R26). -/
  z : Bool
  /-- The negative flag Nf (R26). -/
  nf : Bool
  /-- The carry flag C (R26), false in every reachable state (R28). -/
  c : Bool
  /-- The program counter: an index into the program (R29). -/
  pc : Pc
  /-- The pipeline slots Fetch 0, Decode 1, Execute 2, Writeback 3 (R30): `none` is `valid` = false, whose payload no
  rule reads (log entry 2). -/
  slots : Vector (Option Diw) Config.depth
  /-- Whether the engine performs cycles (R32). -/
  running : Bool
  /-- Why it does not (R33). -/
  stopReason : StopReason
  /-- The Memory Bank (R34). -/
  mem : Memory
  /-- The GPIO Bank (R35). -/
  gpio : Vector Word Config.gpioPins
  /-- The instruction memory IMEM (R36), a launch parameter that no rule writes; its length is N (log entry 4). -/
  imem : List Diw
  /-- The level of the input `rst` at the next clock edge (R39), which only the host changes (log entry 6). -/
  rst : Bool
  /-- The instruction fetch port (R40) at the last edge: `some a` is `if_req` = 1 and `if_addr` = a (log entry 5). -/
  ifPort : Option Pc
  /-- The diagnostic port (R41) at the last edge: `none` is `diag_valid` = 0. -/
  diag : Option Diag
  /-- The pin-change port (R42) at the last edge: `none` is `gpio_evt_valid` = 0. -/
  pinEvt : Option PinEvent
  deriving DecidableEq, Repr

/-- The state right after reset (70_reset R170), `rst` released, with no program loaded: the host supplies IMEM and N
(R172, R173), and the reset touches neither (log entries 4 and 6). -/
def State.reset : State where
  x := Vector.replicate Config.nregs 0
  z := false
  nf := false
  c := false
  pc := 0
  slots := Vector.replicate Config.depth none
  running := true
  stopReason := .running
  mem := []
  gpio := Vector.replicate Config.gpioPins 0
  imem := []
  rst := false
  ifPort := none
  diag := none
  pinEvt := none

end Sys2Proof.Machine
end

