-- ==== Sys2Proof/Machine/Ops.lean ====
section
/-! DEFINITION. The named operations over the state: its updates, the registers, the Memory Bank, the diagnostic port,
the GPIO Bank, the bus, the stops (a fatal stop is this machine's exception entry) and reset (its only way back). -/

namespace Sys2Proof.Machine

/-- `trunc_32(i)` (00_scope R9): the integer modulo 2^32. -/
def trunc32 (i : Int) : Word := BitVec.ofInt Config.xlen i

/-- `x[r]` (00_scope R10). -/
def State.readReg (s : State) (r : RegIx) : Word := s.x[r]

/-- `x[r] <- v` (00_scope R10). -/
def State.writeReg (s : State) (r : RegIx) (v : Word) : State := { s with x := s.x.set r v }

/-- The three flags, written together (42_arithmetic R120). -/
def State.setFlags (s : State) (z nf c : Bool) : State := { s with z := z, nf := nf, c := c }

/-- The word at a Memory Bank address: the listed one, else the reset value (10_state R34). -/
def Memory.read : Memory → Nat → Word
  | [], _ => Config.memReset
  | (b, w) :: m, a => if a = b then w else Memory.read m a

/-- The Memory Bank with the word at `a` written, in canonical form again: writing the reset value removes the entry. -/
def Memory.write : Memory → Nat → Word → Memory
  | [], a, v => if v = Config.memReset then [] else [(a, v)]
  | (b, w) :: m, a, v =>
    if a < b then (if v = Config.memReset then (b, w) :: m else (a, v) :: (b, w) :: m)
    else if a = b then (if v = Config.memReset then m else (a, v) :: m)
    else (b, w) :: Memory.write m a v

/-- The canonical form from address `lo` on: addresses rise strictly from `lo`, lie in the bank, and no entry holds
the reset value. -/
def Memory.wfFrom (lo : Nat) : Memory → Bool
  | [] => true
  | (a, v) :: m => decide (lo ≤ a) && decide (a < Config.memWords) && v != Config.memReset && Memory.wfFrom (a + 1) m

/-- The canonical form of the Memory Bank. -/
def Memory.wf (m : Memory) : Bool := Memory.wfFrom 0 m

/-- `mem[a] <- v` (20_memory R53). -/
def State.writeMem (s : State) (a : Nat) (v : Word) : State := { s with mem := s.mem.write a v }

/-- `gpio[p] <- v` (20_memory R58). -/
def State.writePin (s : State) (p : PinIx) (v : Word) : State := { s with gpio := s.gpio.set p v }

/-- `gpio_event(p, v)` (20_memory R58, 10_state R42). -/
def State.pinEvent (s : State) (p : PinIx) (v : Word) : State := { s with pinEvt := some ⟨p, v⟩ }

/-- `report(code, info)` (10_state R41): it changes no architectural state (00_scope R10). -/
def State.report (s : State) (code : DiagCode) (info : Word) : State := { s with diag := some ⟨code, info⟩ }

/-- `running <- false; stop_reason <- reason` (10_state R32, R33). -/
def State.stop (s : State) (reason : StopReason) : State := { s with running := false, stopReason := reason }

/-- The pin a signed index names, if it is in range (20_memory R58: `0 <= pin < GPIO_PINS`). -/
def pinOf (pin : Int) : Option PinIx :=
  if h : 0 ≤ pin ∧ pin < (Config.gpioPins : Int) then
    some ⟨pin.toNat, by have := h.2; simp only [Config.gpioPins] at this; omega⟩
  else none

/-- `GpioRead(pin)` (20_memory R59): the value read, and the state after, which a report may have changed. -/
def gpioRead (s : State) (pin : Int) : Word × State :=
  match pinOf pin with
  | some p => (s.gpio[p], s)
  | none => (0, s.report .gpioReadRange (trunc32 pin))

/-- `GpioWrite(pin, v)` (20_memory R58): the event is emitted on every in-range write, also of the old value. -/
def gpioWrite (s : State) (pin : Int) (v : Word) : State :=
  match pinOf pin with
  | some p => (s.writePin p v).pinEvent p v
  | none => s.report .gpioWriteRange (trunc32 pin)

/-- `MemRead(addr, 1)` (20_memory R52, R54; 90_conflicts C1). -/
def busRead (s : State) (addr : BusAddr) : Word × State :=
  if addr.toNat < Config.memWords then (s.mem.read addr.toNat, s)
  else if Config.gpioBase ≤ addr.toNat then gpioRead s ((addr.toNat : Int) - (Config.gpioBase : Int))
  else (0, s.report .busReadUnmapped (addr.setWidth Config.xlen))

/-- `MemWrite(addr, 1, v)` (20_memory R53, R54; 90_conflicts C1). -/
def busWrite (s : State) (addr : BusAddr) (v : Word) : State :=
  if addr.toNat < Config.memWords then s.writeMem addr.toNat v
  else if Config.gpioBase ≤ addr.toNat then gpioWrite s ((addr.toNat : Int) - (Config.gpioBase : Int)) v
  else s.report .busWriteUnmapped (addr.setWidth Config.xlen)

/-- The two fatal conditions (60_exceptions R141 to R143), each with the value its diagnostic carries. -/
inductive Fatal where
  /-- R142: an opcode that names no operation. -/
  | unknownOpcode (opcode : Opcode)
  /-- R143: the first used register field outside 0..15. -/
  | badRegister (field : Field)
  deriving DecidableEq, Repr

/-- The stop reason a fatal condition records (60_exceptions R142, R143). -/
def Fatal.reason : Fatal → StopReason
  | .unknownOpcode _ => .faultUnknownOpcode
  | .badRegister _ => .faultBadRegister

/-- The diagnostic a fatal condition reports (60_exceptions R142, R143, R145). -/
def Fatal.diag : Fatal → Diag
  | .unknownOpcode op => ⟨.unknownOpcode, op.setWidth Config.xlen⟩
  | .badRegister f => ⟨.badRegister, f⟩

/-- `raise Fatal(reason)` (60_exceptions R141): the stop is recorded and reported, nothing else changes, nothing is
saved; the cycle's Advance is the step's (40_pipeline R96). -/
def raiseFatal (s : State) (f : Fatal) : State := (s.stop f.reason).report f.diag.code f.diag.info

/-- A clock edge with `rst` high (10_state R39, 70_reset R170, R172): every item takes its reset value, the launch
parameters stay, and `rst` stays until the host lowers it. It is the only way back from a stop (60_exceptions R149). -/
def resetEdge (s : State) : State := { State.reset with imem := s.imem, rst := s.rst }

/-- The machine released from reset with a program the host supplied (70_reset R171, R173). -/
def launch (prog : List Diw) : State := { State.reset with imem := prog }

end Sys2Proof.Machine
end

