-- ==== Sys2Proof/Machine/Flags.lean ====
section
/-! DEFINITION. The flag update and the integer arithmetic (42_arithmetic R120 to R122). -/

namespace Sys2Proof.Machine

/-- Z of `status(v)` (42_arithmetic R120). -/
def statusZ (v : Word) : Bool := decide (v = 0)

/-- Nf of `status(v)` (42_arithmetic R120). -/
def statusN (v : Word) : Bool := decide (v.toInt < 0)

/-- C of `status(v)`: false for every `v` (42_arithmetic R121). -/
def statusC (_v : Word) : Bool := false

/-- `flags <- status(v)` (42_arithmetic R120). -/
def updateStatus (s : State) (v : Word) : State := s.setFlags (statusZ v) (statusN v) (statusC v)

/-- `x[d] <- v; flags <- status(v)`: how LOAD, ADD, MUL and MAC end (42_arithmetic R120). -/
def writeResult (s : State) (d : RegIx) (v : Word) : State := updateStatus (s.writeReg d v) v

/-- `trunc_32(sint(a) + sint(b))` (42_arithmetic R122). -/
def aluAdd (a b : Word) : Word := trunc32 (a.toInt + b.toInt)

/-- `trunc_32(sint(a) * sint(b))` (42_arithmetic R122). -/
def aluMul (a b : Word) : Word := trunc32 (a.toInt * b.toInt)

/-- `trunc_32(sint(acc) + sint(a) * sint(b))` (42_arithmetic R122). -/
def aluMac (acc a b : Word) : Word := trunc32 (acc.toInt + a.toInt * b.toInt)

end Sys2Proof.Machine
end

