-- ==== Sys2Proof/Machine/Operands.lean ====
section
/-! DEFINITION. The operand forms: register-index fields with their check in Execute, the bus address in a register
and the pin index in a register (30_encoding R73 to R76). -/

namespace Sys2Proof.Machine

/-- The register a field names, if `uint(field) < NREGS` (30_encoding R73). -/
def regOf (f : Field) : Option RegIx :=
  if h : f.toNat < Config.nregs then some ⟨f.toNat, h⟩ else none

/-- The check of one used register field (10_state R25): the rest of the instruction goes on with the register it
names, or the run stops with BAD_REGISTER and nothing else happens. Nested in the order `op1`, `op2`, `op3`, it checks
every field before any effect and names the first bad one (60_exceptions R143, R147). -/
def withReg (f : Field) (s : State) (k : RegIx → Host.Outcome State Fault Refusal) :
    Host.Outcome State Fault Refusal :=
  match regOf f with
  | some r => k r
  | none => .next (raiseFatal s (.badRegister f))

/-- The bus address in a register value: `x[r][15:0]` (20_memory R51). -/
def busAddrOf (v : Word) : BusAddr := v.extractLsb' 0 Config.addrBits

/-- The pin index in a register value, for OUT: the full signed value (20_memory R51, 43_io_and_control R130). -/
def pinIndexOf (v : Word) : Int := v.toInt

end Sys2Proof.Machine
end

