-- ==== Sys2Proof/Machine/Arithmetic.lean ====
section
/-! DEFINITION. The arithmetic instructions (42_arithmetic). -/

namespace Sys2Proof.Machine

/-- ADD (R123): `x[op1] <- x[op2] + x[op3]`; flags from the result. -/
def execAdd (op1 op2 op3 : Field) (s : State) : Host.Outcome State Fault Refusal :=
  withReg op1 s fun d => withReg op2 s fun a => withReg op3 s fun b =>
    .next (writeResult s d (aluAdd (s.readReg a) (s.readReg b)))

/-- MUL (R124): `x[op1] <- x[op2] * x[op3]`, the low 32 bits; flags from the result. -/
def execMul (op1 op2 op3 : Field) (s : State) : Host.Outcome State Fault Refusal :=
  withReg op1 s fun d => withReg op2 s fun a => withReg op3 s fun b =>
    .next (writeResult s d (aluMul (s.readReg a) (s.readReg b)))

/-- MAC (R125): `x[op1] <- x[op1] + x[op2] * x[op3]`; flags from the result. -/
def execMac (op1 op2 op3 : Field) (s : State) : Host.Outcome State Fault Refusal :=
  withReg op1 s fun d => withReg op2 s fun a => withReg op3 s fun b =>
    .next (writeResult s d (aluMac (s.readReg d) (s.readReg a) (s.readReg b)))

end Sys2Proof.Machine
end

