-- ==== Sys2Proof/Machine/Control.lean ====
section
/-! DEFINITION. The output and control instructions (43_io_and_control). -/

namespace Sys2Proof.Machine

/-- OUT (R130): `x[op2]` to the pin numbered by the signed value of `x[op1]`; no flag, no register. -/
def execOut (op1 op2 : Field) (s : State) : Host.Outcome State Fault Refusal :=
  withReg op1 s fun p => withReg op2 s fun v =>
    .next (gpioWrite s (pinIndexOf (s.readReg p)) (s.readReg v))

/-- HALT (R131): the engine stops; the cycle's Advance is still performed by the step. -/
def execHalt (s : State) : Host.Outcome State Fault Refusal := .next (s.stop .halted)

/-- An opcode that names no operation (R133): the fatal stop FAULT_UNKNOWN_OPCODE, carrying the opcode. -/
def unknownOpcode (op : Opcode) (s : State) : Host.Outcome State Fault Refusal :=
  .next (raiseFatal s (.unknownOpcode op))

/-- NOP (R132, 90_conflicts C3): fatal in Execute, info 0. -/
def execNop (s : State) : Host.Outcome State Fault Refusal := unknownOpcode 0 s

/-- INVALID (R133): fatal in Execute, info 8. -/
def execInvalid (s : State) : Host.Outcome State Fault Refusal := unknownOpcode 8 s

/-- Opcode 9 (R133): fatal in Execute, info 9. -/
def execUnassigned9 (s : State) : Host.Outcome State Fault Refusal := unknownOpcode 9 s

/-- Opcodes 10 and 11 (R133): fatal in Execute, the opcode as info. -/
def execUnassigned10to11 (op : Opcode) (s : State) : Host.Outcome State Fault Refusal := unknownOpcode op s

/-- Opcodes 12 to 15 (R133): fatal in Execute, the opcode as info. -/
def execUnassigned12to15 (op : Opcode) (s : State) : Host.Outcome State Fault Refusal := unknownOpcode op s

end Sys2Proof.Machine
end

