-- ==== Sys2Proof/Machine/Transfer.lean ====
section
/-! DEFINITION. The data transfer instructions (41_data_transfer). -/

namespace Sys2Proof.Machine

/-- LOAD, immediate form (R110): the literal, all 32 bits, into `x[op1]`; flags from it. -/
def execLoadImmediate (op1 : Field) (op2 : Word) (s : State) : Host.Outcome State Fault Refusal :=
  withReg op1 s fun d => .next (writeResult s d op2)

/-- LOAD, register form (R111): the word on the bus at `x[op2][15:0]` into `x[op1]`; flags from it. -/
def execLoadRegister (op1 op2 : Field) (s : State) : Host.Outcome State Fault Refusal :=
  withReg op1 s fun d => withReg op2 s fun a =>
    let r := busRead s (busAddrOf (s.readReg a))
    .next (writeResult r.2 d r.1)

/-- STORE (R112): `x[op2]` to the bus at `x[op1][15:0]`; no flag, no register. -/
def execStore (op1 op2 : Field) (s : State) : Host.Outcome State Fault Refusal :=
  withReg op1 s fun a => withReg op2 s fun v =>
    .next (busWrite s (busAddrOf (s.readReg a)) (s.readReg v))

end Sys2Proof.Machine
end

