-- ==== Sys2Proof/Machine/Dispatch.lean ====
section
/-! DEFINITION. Execute's dispatch on the instruction in slot 2 (40_pipeline R94): one arm per constructor. -/

namespace Sys2Proof.Machine

/-- What Execute does with an instruction (40_pipeline R93, R94). -/
def exec (i : Instr) (s : State) : Host.Outcome State Fault Refusal :=
  match i with
  | .loadImmediate op1 op2 => Sys2Proof.Machine.execLoadImmediate op1 op2 s
  | .loadRegister op1 op2 => Sys2Proof.Machine.execLoadRegister op1 op2 s
  | .store op1 op2 => Sys2Proof.Machine.execStore op1 op2 s
  | .add op1 op2 op3 => Sys2Proof.Machine.execAdd op1 op2 op3 s
  | .mul op1 op2 op3 => Sys2Proof.Machine.execMul op1 op2 op3 s
  | .mac op1 op2 op3 => Sys2Proof.Machine.execMac op1 op2 op3 s
  | .out op1 op2 => Sys2Proof.Machine.execOut op1 op2 s
  | .halt => Sys2Proof.Machine.execHalt s
  | .nop => Sys2Proof.Machine.execNop s
  | .invalid => Sys2Proof.Machine.execInvalid s
  | .unassigned9 => Sys2Proof.Machine.execUnassigned9 s
  | .unassigned10to11 opcode => Sys2Proof.Machine.execUnassigned10to11 opcode s
  | .unassigned12to15 opcode => Sys2Proof.Machine.execUnassigned12to15 opcode s

end Sys2Proof.Machine
end

