-- ==== Sys2Proof/Machine/Ports.lean ====
section
/-! DEFINITION. The output ports of 10_state R39 to R43 as functions of the state. A code, info, pin, value or address
whose valid bit is 0 has no specified value, and answers `none`. -/

namespace Sys2Proof.Machine

/-- `stop_reason[2:0]` (10_state R33, R43). -/
def StopReason.toBits : StopReason → BitVec 3
  | .running => 0
  | .halted => 1
  | .drained => 2
  | .faultUnknownOpcode => 3
  | .faultBadRegister => 4

/-- `diag_code[3:0]` (60_exceptions R144). -/
def DiagCode.toBits : DiagCode → BitVec 4
  | .busReadUnmapped => 1
  | .busWriteUnmapped => 2
  | .gpioReadRange => 3
  | .gpioWriteRange => 4
  | .unknownOpcode => 5
  | .badRegister => 6

/-- `status[2:0] = {C, Nf, Z}` (10_state R27, R43). -/
def State.statusPort (s : State) : BitVec 3 := BitVec.ofBool s.c ++ BitVec.ofBool s.nf ++ BitVec.ofBool s.z

/-- `running` (10_state R43). -/
def State.runningPort (s : State) : Bool := s.running

/-- `stop_reason[2:0]` (10_state R43). -/
def State.stopReasonPort (s : State) : BitVec 3 := s.stopReason.toBits

/-- `gpio_pin_value[p]` (10_state R42). -/
def State.gpioPinValue (s : State) (p : PinIx) : Word := s.gpio[p]

/-- `prog_len`, the program's length N (10_state R40). -/
def State.progLen (s : State) : Nat := s.imem.length

/-- `if_req` at the last edge (10_state R40). -/
def State.ifReq (s : State) : Bool := s.ifPort.isSome

/-- `if_addr` at the last edge (10_state R40). -/
def State.ifAddr (s : State) : Option Pc := s.ifPort

/-- `diag_valid` at the last edge (10_state R41). -/
def State.diagValid (s : State) : Bool := s.diag.isSome

/-- `diag_code` at the last edge (10_state R41, 60_exceptions R144). -/
def State.diagCode (s : State) : Option (BitVec 4) := s.diag.map fun d => d.code.toBits

/-- `diag_info` at the last edge (10_state R41, 60_exceptions R145). -/
def State.diagInfo (s : State) : Option Word := s.diag.map fun d => d.info

/-- `gpio_evt_valid` at the last edge (10_state R42). -/
def State.gpioEvtValid (s : State) : Bool := s.pinEvt.isSome

/-- `gpio_evt_pin` at the last edge (10_state R42). -/
def State.gpioEvtPin (s : State) : Option (BitVec 4) := s.pinEvt.map fun e => BitVec.ofNat 4 e.pin.val

/-- `gpio_evt_value` at the last edge (10_state R42). -/
def State.gpioEvtValue (s : State) : Option Word := s.pinEvt.map fun e => e.value

end Sys2Proof.Machine
end

