-- ==== Sys2Proof/Machine/Pipeline.lean ====
section
/-! DEFINITION. The parts of one clock edge other than Execute (40_pipeline R90 to R97, 10_state R39): what kind of edge
it is, Fetch, which instruction Execute takes, Advance and the drain test. -/

namespace Sys2Proof.Machine

/-- What a rising clock edge does (10_state R39, 40_pipeline R91, 70_reset R174). -/
inductive Edge where
  /-- `rst` is high: every item takes its reset value, no cycle is performed. -/
  | reset
  /-- The engine is stopped: nothing changes, no fetch, no event. -/
  | idle
  /-- The loaded program is longer than `progCap`: no specified behaviour. -/
  | tooLong
  /-- One cycle is performed. -/
  | cycle
  deriving DecidableEq, Repr

/-- The kind of the next clock edge. -/
def edgeOf (s : State) : Edge :=
  if s.rst then .reset
  else if !s.running then .idle
  else if Config.progCap < s.progLen then .tooLong
  else .cycle

/-- The event ports with every valid bit 0, as they are in a cycle that issues nothing (10_state R40 to R42). -/
def clearPorts (s : State) : State := { s with ifPort := none, diag := none, pinEvt := none }

/-- Fetch (40_pipeline R92): if slot 0 is empty and `pc < N`, IMEM[pc] goes into slot 0 through the fetch port and `pc`
advances by one. -/
def fetch (s : State) : State :=
  if h : s.slots[0] = none ∧ s.pc.toNat < s.imem.length then
    { s with slots := s.slots.set 0 (some (s.imem[s.pc.toNat]'h.2)), pc := s.pc + 1, ifPort := some s.pc }
  else s

/-- The instruction in the Execute slot, decoded (40_pipeline R93, R94). -/
def executing (s : State) : Option Instr := s.slots[Config.execSlot].map decode

/-- Advance (40_pipeline R96): every slot takes the one before it, and slot 0 is emptied. -/
def advance (s : State) : State := { s with slots := #v[none, s.slots[0], s.slots[1], s.slots[2]] }

/-- Whether the sequence is exhausted and slots 1, 2 and 3 are empty (40_pipeline R97). -/
def drained (s : State) : Bool :=
  decide (s.imem.length ≤ s.pc.toNat) && s.slots[1].isNone && s.slots[2].isNone && s.slots[3].isNone

/-- The drain test (40_pipeline R97). -/
def drainTest (s : State) : State := if s.running && drained s then s.stop .drained else s

/-- What comes before Execute in a cycle: the event ports fall, then Fetch (40_pipeline R90). -/
def beginCycle (s : State) : State := fetch (clearPorts s)

/-- What comes after Execute in a cycle: Advance, then the drain test (40_pipeline R90). -/
def endCycle (s : State) : State := drainTest (advance s)

/-- The state in which a program of the one word `w` has been fetched and stands in the Execute slot, so that the next
edge executes it: IMEM holds it alone, `pc` = N = 1, the other slots are empty, the engine runs and `rst` is low. From
reset this is the state after two cycles of `launch [w]`; log entry 8. -/
def placeForExecute (s : State) (w : Diw) : State :=
  { s with
    imem := [w]
    pc := 1
    slots := #v[none, none, some w, none]
    running := true
    stopReason := .running
    rst := false }

end Sys2Proof.Machine
end

