-- ==== Sys2Proof/Machine/Step.lean ====
section
/-! DEFINITION. One step of the machine: one rising edge of `clk` (10_state R39, 40_pipeline R90). -/

namespace Sys2Proof.Machine

/-- One rising edge of `clk`: reset while `rst` is high, nothing while stopped, else one cycle of Fetch, Execute,
Advance and drain test. -/
def step (s : State) : Host.Outcome State Fault Refusal :=
  match edgeOf s with
  | .reset => .next (resetEdge s)
  | .idle => .next (clearPorts s)
  | .tooLong => .refused .programTooLong
  | .cycle =>
    match executing (beginCycle s) with
    | none => .next (endCycle (beginCycle s))
    | some i =>
      match exec i (beginCycle s) with
      | .next t => .next (endCycle t)
      | .fault r => .fault r
      | .refused r => .refused r

/-- `s` with the table word `w` of `nbits` bits (the bits above them 0) placed where the next step executes it: an
instruction executes two cycles after its fetch, so the word stands in the Execute slot of a one-word program. -/
def State.withFetchWord (s : State) (nbits w : Nat) : State :=
  placeForExecute s (BitVec.ofNat Config.iwBits (w % 2 ^ nbits))

end Sys2Proof.Machine
end

