-- ==== Sys2Proof/Safety.lean ====
section
/-! DEFINITION. The terms in which claims speak of a run: how it ends, the invariant of the machine, the engine's
timeline, the states an instruction is to leave, and the strictly sequential reading of a program. -/

namespace Sys2Proof.Machine

/-- The run has ended cleanly (40_pipeline R103). -/
abbrev State.CleanEnd (s : State) : Prop :=
  s.running = false ∧ (s.stopReason = .halted ∨ s.stopReason = .drained)

/-- The run has ended in a fault (40_pipeline R103). -/
abbrev State.FaultedEnd (s : State) : Prop :=
  s.running = false ∧ (s.stopReason = .faultUnknownOpcode ∨ s.stopReason = .faultBadRegister)

/-- What holds between clock edges: the Memory Bank is in canonical form, slot 0 is empty (10_state R31), the carry
flag is false (R28), `pc` is in 0..N (R29), and the engine runs exactly while no stop reason is recorded (R33). -/
abbrev MachineInv (s : State) : Prop :=
  s.mem.wf = true ∧ s.slots[0] = none ∧ s.c = false ∧ s.pc.toNat ≤ s.imem.length ∧
    (s.running = true ↔ s.stopReason = .running)

/-- The word that stands in slot `j` after `t` cycles: instruction `t - j`, if there is one (40_pipeline R99). -/
def slotAfter (prog : List Diw) (t j : Nat) : Option Diw := if j ≤ t then prog[t - j]? else none

/-- The fetch state of the engine after `t` cycles since the launch: `pc` and the slots are where 40_pipeline R99 has
them. -/
abbrev AfterCycles (t : Nat) (s : State) : Prop :=
  s.pc.toNat = min t s.imem.length ∧ s.slots[0] = none ∧ s.slots[1] = slotAfter s.imem t 1 ∧
    s.slots[2] = slotAfter s.imem t 2 ∧ s.slots[3] = slotAfter s.imem t 3

/-- The next clock edge performs a cycle (10_state R39, 70_reset R174): `rst` is low, the engine runs, and the program
is one a launch may have. -/
abbrev Cycling (s : State) : Prop := s.rst = false ∧ s.running = true ∧ s.imem.length ≤ Config.progCap

/-- The engine as a launch leaves it: before its first cycle, with any registers, flags, memory and pins. -/
abbrev Launched (s : State) : Prop := Cycling s ∧ AfterCycles 0 s

/-- The first field, in the order given, that is no register number (60_exceptions R143). -/
def firstBad (fields : List Field) : Option Field := fields.find? fun f => Config.nregs ≤ f.toNat

/-- The state BAD_REGISTER leaves (60_exceptions R141, R143): the stop and its report, nothing else. -/
def badRegisterStop (s : State) (f : Field) : State :=
  { s with running := false, stopReason := .faultBadRegister, diag := some ⟨.badRegister, f⟩ }

/-- The state an unknown opcode leaves (60_exceptions R141, R142): the stop and its report, nothing else. -/
def unknownOpcodeStop (s : State) (op : Opcode) : State :=
  { s with running := false, stopReason := .faultUnknownOpcode, diag := some ⟨.unknownOpcode, op.setWidth Config.xlen⟩ }

/-- The state in which `x[d]` holds the result `v` and the flags are `status(v)` (42_arithmetic R120), all else as in
`s`. -/
def resultState (s : State) (d : Nat) (v : Word) (h : d < Config.nregs) : State :=
  { s with x := s.x.set d v, z := decide (v = 0), nf := decide (v.toInt < 0), c := false }

/-- The registers, flags, memory and pins of two states are the same. -/
abbrev ArchSame (s t : State) : Prop :=
  s.x = t.x ∧ s.z = t.z ∧ s.nf = t.nf ∧ s.c = t.c ∧ s.mem = t.mem ∧ s.gpio = t.gpio

/-- What every instruction leaves alone (40_pipeline R100, 20_memory R66, 10_state R40): `pc`, the slots, the program,
`rst` and the fetch port. -/
abbrev EngineSame (s t : State) : Prop :=
  t.pc = s.pc ∧ t.slots = s.slots ∧ t.imem = s.imem ∧ t.rst = s.rst ∧ t.ifPort = s.ifPort

/-- `k` clock edges, one after another, to the first that has no next state. -/
def runFor : Nat → State → Host.Outcome State Fault Refusal
  | 0, s => .next s
  | k + 1, s =>
    match step s with
    | .next t => runFor k t
    | .fault r => .fault r
    | .refused r => .refused r

/-- A program read strictly sequentially, with no pipeline: each instruction in turn, until one stops the engine
(20_memory R64, 40_pipeline R101). -/
def seqRun : List Diw → State → State
  | [], s => s
  | w :: ws, s =>
    match exec (decode w) s with
    | .next t => if t.running then seqRun ws t else t
    | .fault _ => s
    | .refused _ => s

end Sys2Proof.Machine
end

