-- ==== Sys2Proof/Certificates/Slice0/Obligations.lean ====
section
/-! DEFINITION. The statements for the provers, one Prop each; OBLIGATIONS.json lists them. Where a rule of spec/ is
marked there as one of the spec's own decisions (92_eei_decisions), the docstring says so. -/


open Sys2Proof Sys2Proof.Machine

/-! ## Encoding and decoding -/

/-- 30_encoding R70, R71, R77: the encoder's word of every well-formed instruction decodes to that instruction, with
every operand at every value. -/
def Obligations.DecodeOfEncode : Prop :=
  ∀ i : Instr, i.wellFormed = true → decode (encode i) = i

/-- spec/opcode_table.json, 30_encoding R71: a word matches a row of the table exactly when it decodes to the row's
instruction, and what it decodes to is well-formed and has the word's opcode. -/
def Obligations.DecodeFollowsOpcodeTable : Prop :=
  ∀ w : Diw, (decode w).wellFormed = true ∧ (decode w).opcode = w.extractLsb' 0 4 ∧
    ∀ (k : Nat) (r : String × Diw × Diw), opcodeRows[k]? = some r → (w &&& r.2.2 = r.2.1 ↔ (decode w).row = k)

/-- 30_encoding R81: the class of a word (its row of the opcode table) depends on `DIW[4:0]` alone. -/
def Obligations.ClassFromLowFiveBits : Prop :=
  ∀ w w' : Diw, w.extractLsb' 0 5 = w'.extractLsb' 0 5 → (decode w).row = (decode w').row

/-- 30_encoding R85, 95_test_vectors: words written out from the encoding decode to the instructions they stand for. -/
def Obligations.DecodeOfSpecWords : Prop :=
  decode 0x00000000_00000005_00000000_00000011 = .loadImmediate 0 5 ∧
  decode 0x00000000_00000003_00000001_00000011 = .loadImmediate 1 3 ∧
  decode 0x00000001_00000000_00000002_00000003 = .add 2 0 1 ∧
  decode 0x00000001_00000000_00000002_00000005 = .mac 2 0 1 ∧
  decode 0x00000000_00000001_00000002_00000006 = .out 2 1 ∧
  decode 0x00000000_00000000_00000000_00000007 = .halt ∧
  decode 0x00000000_00000000_00000002_00000001 = .loadRegister 2 0 ∧
  decode 0x00000000_00000001_00000000_00000012 = .store 0 1 ∧
  decode 0x00000002_00000002_00000003_00000004 = .mul 3 2 2 ∧
  decode 0x00000000_00000000_00000000_00000000 = .nop ∧
  decode 0x00000000_00000000_00000000_00000008 = .invalid ∧
  decode 0x00000000_00000000_00000063_0000000F = .unassigned12to15 15

/-- 30_encoding R72, R75, R77: the reserved field, the `imm` bit of every opcode but LOAD, and every operand field that
a class does not use are not looked at: words that agree on what is used decode alike. -/
def Obligations.UnusedBitsAreIgnored : Prop :=
  ∀ w w' : Diw, w.extractLsb' 0 4 = w'.extractLsb' 0 4 →
    (w.extractLsb' 0 4 = 1#4 → w.getLsbD 4 = w'.getLsbD 4) →
    (1 ≤ (w.extractLsb' 0 4).toNat ∧ (w.extractLsb' 0 4).toNat ≤ 6 →
      w.extractLsb' 32 32 = w'.extractLsb' 32 32 ∧ w.extractLsb' 64 32 = w'.extractLsb' 64 32) →
    (3 ≤ (w.extractLsb' 0 4).toNat ∧ (w.extractLsb' 0 4).toNat ≤ 5 →
      w.extractLsb' 96 32 = w'.extractLsb' 96 32) →
    decode w = decode w'

/-! ## The clock edge -/

/-- 40_pipeline R90, R93, R94: in a cycle, the word in slot 2 is decoded and executed on the state Fetch left, and
Advance and the drain test follow; with slot 2 empty, Execute does nothing. -/
def Obligations.StepRunsTheExecuteSlot : Prop :=
  ∀ s : State, Cycling s →
    (∀ w : Diw, s.slots[2] = some w →
      step s = match exec (decode w) (fetch (clearPorts s)) with
        | .next t => .next (drainTest (advance t))
        | .fault r => .fault r
        | .refused r => .refused r) ∧
    (s.slots[2] = none → step s = .next (drainTest (advance (fetch (clearPorts s)))))

/-- 40_pipeline R91: with `running` false an edge changes no state, fetches nothing and emits no event, edge after
edge, as long as `rst` is low. -/
def Obligations.StoppedEngineHoldsItsState : Prop :=
  ∀ (s : State) (k : Nat), s.rst = false → s.running = false →
    runFor (k + 1) s = .next { s with ifPort := none, diag := none, pinEvt := none }

/-- 70_reset R170, R172: an edge with `rst` high gives every item its reset value, whatever the state was, performs no
cycle, and leaves the program; State.reset itself holds those values. The level of `rst` is the host's. -/
def Obligations.ResetEdgeGivesResetState : Prop :=
  ∀ s : State, s.rst = true → ∃ t, step s = .next t ∧
    (∀ r : Fin 16, t.x[r] = 0) ∧ t.z = false ∧ t.nf = false ∧ t.c = false ∧ t.pc = 0 ∧
    (∀ j : Fin 4, t.slots[j] = none) ∧ t.running = true ∧ t.stopReason = .running ∧
    (∀ a : Nat, t.mem.read a = 0) ∧ (∀ p : Fin 16, t.gpio[p] = 0) ∧
    t.diagValid = false ∧ t.gpioEvtValid = false ∧ t.ifReq = false ∧
    t.imem = s.imem ∧ t.rst = s.rst ∧ { t with imem := [], rst := false } = State.reset

/-- 40_pipeline R92, R96: every cycle, also one in which HALT or a fatal stop executes, fetches as R92 says and shifts
the slots as R96 says; Fetch looks at no instruction, and alone it reports nothing. -/
def Obligations.EveryCycleFetchesAndAdvances : Prop :=
  ∀ s : State, Cycling s → ∃ t, step s = .next t ∧
    t.slots[0] = none ∧ t.slots[2] = s.slots[1] ∧ t.slots[3] = s.slots[2] ∧
    (s.slots[2] = none → t.diag = none ∧ t.pinEvt = none) ∧
    (∀ h : s.pc.toNat < s.imem.length, s.slots[0] = none →
      t.slots[1] = some s.imem[s.pc.toNat] ∧ t.pc.toNat = s.pc.toNat + 1 ∧ t.ifPort = some s.pc) ∧
    (s.imem.length ≤ s.pc.toNat ∨ s.slots[0] ≠ none →
      t.slots[1] = s.slots[0] ∧ t.pc = s.pc ∧ t.ifPort = none)

/-- 40_pipeline R97 (the spec's decision D11): after Advance, with the sequence exhausted and the slots empty, the
engine stops as DRAINED; a cycle whose Execute slot is empty stops for no other reason. -/
def Obligations.DrainTestStopsAnEmptyEngine : Prop :=
  ∀ s : State, Cycling s → s.slots[2] = none → ∃ t, step s = .next t ∧
    (s.imem.length ≤ s.pc.toNat → s.slots[0] = none → s.slots[1] = none →
      t.running = false ∧ t.stopReason = .drained) ∧
    (s.pc.toNat < s.imem.length ∨ s.slots[0] ≠ none ∨ s.slots[1] ≠ none →
      t.running = true ∧ t.stopReason = s.stopReason)

/-- 10_state R32, 40_pipeline R98: `running` goes false only by HALT, by a fatal condition of the instruction in slot 2
or by the drain test with slot 2 empty, each under its own stop reason; and only reset sets it true again. -/
def Obligations.RunStopsInExactlyThreeWays : Prop :=
  ∀ s t : State, step s = .next t →
    (s.rst = true → t.running = true) ∧
    (s.rst = false → s.running = false → t.running = false ∧ t.stopReason = s.stopReason) ∧
    (s.rst = false → s.running = true → t.running = true → t.stopReason = s.stopReason) ∧
    (s.rst = false → s.running = true → t.running = false →
      (s.slots[2] = none ∧ t.stopReason = .drained) ∨
      (∃ w, s.slots[2] = some w ∧ decode w = .halt ∧ t.stopReason = .halted) ∨
      (∃ w, s.slots[2] = some w ∧ (decode w).opcodeKnown = false ∧ t.stopReason = .faultUnknownOpcode) ∨
      (∃ w, s.slots[2] = some w ∧ (decode w).opcodeKnown = true ∧ (decode w).regsValid = false ∧
        t.stopReason = .faultBadRegister))

/-- 20_memory R66: no step changes the program, a STORE to any address included. -/
def Obligations.NoStepChangesTheProgram : Prop :=
  ∀ s t : State, step s = .next t → t.imem = s.imem ∧ t.rst = s.rst

/-- 70_reset R174 (the spec's decision D26), log entry 7: a step is refused exactly when a cycle would run a program of
more than 1024 instructions; every other step has a next state, and none faults. -/
def Obligations.StepIsRefusedOnlyForOverlongProgram : Prop :=
  ∀ s : State,
    (s.rst = false ∧ s.running = true ∧ 1024 < s.imem.length ↔ step s = .refused .programTooLong) ∧
    (¬(s.rst = false ∧ s.running = true ∧ 1024 < s.imem.length) → ∃ t, step s = .next t)

/-! ## The instructions -/

/-- 41_data_transfer R110. -/
def Obligations.LoadImmediateResult : Prop :=
  ∀ (w : Diw) (op1 : Field) (v : Word) (s : State),
    w.extractLsb' 0 4 = 1#4 → w.getLsbD 4 = true → w.extractLsb' 32 32 = op1 → w.extractLsb' 64 32 = v →
    decode w = .loadImmediate op1 v ∧
    (∀ h : op1.toNat < 16, exec (.loadImmediate op1 v) s = .next (resultState s op1.toNat v h)) ∧
    (16 ≤ op1.toNat → exec (.loadImmediate op1 v) s = .next (badRegisterStop s op1))

/-- 41_data_transfer R111, with the bus map of 20_memory R51, R52, R54, R59 (the address's low 16 bits are the spec's
decision D6). -/
def Obligations.LoadRegisterResult : Prop :=
  ∀ (w : Diw) (op1 op2 : Field) (s : State),
    w.extractLsb' 0 4 = 1#4 → w.getLsbD 4 = false → w.extractLsb' 32 32 = op1 → w.extractLsb' 64 32 = op2 →
    decode w = .loadRegister op1 op2 ∧
    (∀ f, firstBad [op1, op2] = some f → exec (.loadRegister op1 op2) s = .next (badRegisterStop s f)) ∧
    (∀ (h1 : op1.toNat < 16) (h2 : op2.toNat < 16) (a : BitVec 16), s.x[op2.toNat].extractLsb' 0 16 = a →
      (a.toNat < 1024 →
        exec (.loadRegister op1 op2) s = .next (resultState s op1.toNat (s.mem.read a.toNat) h1)) ∧
      (1024 ≤ a.toNat → a.toNat < 0x8000 →
        exec (.loadRegister op1 op2) s =
          .next (resultState { s with diag := some ⟨.busReadUnmapped, a.setWidth 32⟩ } op1.toNat 0 h1)) ∧
      (∀ p : Fin 16, a.toNat = 0x8000 + p.val →
        exec (.loadRegister op1 op2) s = .next (resultState s op1.toNat s.gpio[p] h1)) ∧
      (0x8010 ≤ a.toNat →
        exec (.loadRegister op1 op2) s =
          .next (resultState { s with diag := some ⟨.gpioReadRange, BitVec.ofNat 32 (a.toNat - 0x8000)⟩ }
            op1.toNat 0 h1)))

/-- 41_data_transfer R112, with the bus map of 20_memory R51, R53, R54, R58 (the address's low 16 bits are the spec's
decision D6). The memory after is said by its reads, in a memory in canonical form. -/
def Obligations.StoreResult : Prop :=
  ∀ (w : Diw) (op1 op2 : Field) (s : State),
    w.extractLsb' 0 4 = 2#4 → w.extractLsb' 32 32 = op1 → w.extractLsb' 64 32 = op2 →
    decode w = .store op1 op2 ∧
    (∀ f, firstBad [op1, op2] = some f → exec (.store op1 op2) s = .next (badRegisterStop s f)) ∧
    (∀ (_ : op1.toNat < 16) (_ : op2.toNat < 16) (a : BitVec 16), s.x[op1.toNat].extractLsb' 0 16 = a →
      (a.toNat < 1024 → ∃ m, exec (.store op1 op2) s = .next { s with mem := m } ∧
        (s.mem.wf = true → m.read a.toNat = s.x[op2.toNat]) ∧ (∀ b, b ≠ a.toNat → m.read b = s.mem.read b)) ∧
      (1024 ≤ a.toNat → a.toNat < 0x8000 →
        exec (.store op1 op2) s = .next { s with diag := some ⟨.busWriteUnmapped, a.setWidth 32⟩ }) ∧
      (∀ p : Fin 16, a.toNat = 0x8000 + p.val →
        exec (.store op1 op2) s =
          .next { s with gpio := s.gpio.set p.val s.x[op2.toNat], pinEvt := some ⟨p, s.x[op2.toNat]⟩ }) ∧
      (0x8010 ≤ a.toNat →
        exec (.store op1 op2) s =
          .next { s with diag := some ⟨.gpioWriteRange, BitVec.ofNat 32 (a.toNat - 0x8000)⟩ }))

/-- 42_arithmetic R123 (the wrap of R122 is the spec's decision D7). -/
def Obligations.AddResult : Prop :=
  ∀ (w : Diw) (op1 op2 op3 : Field) (s : State),
    w.extractLsb' 0 4 = 3#4 → w.extractLsb' 32 32 = op1 → w.extractLsb' 64 32 = op2 → w.extractLsb' 96 32 = op3 →
    decode w = .add op1 op2 op3 ∧
    (∀ f, firstBad [op1, op2, op3] = some f → exec (.add op1 op2 op3) s = .next (badRegisterStop s f)) ∧
    (∀ (h1 : op1.toNat < 16) (h2 : op2.toNat < 16) (h3 : op3.toNat < 16),
      exec (.add op1 op2 op3) s =
        .next (resultState s op1.toNat (BitVec.ofInt 32 (s.x[op2.toNat].toInt + s.x[op3.toNat].toInt)) h1))

/-- 42_arithmetic R124 (the wrap of R122 is the spec's decision D7). -/
def Obligations.MulResult : Prop :=
  ∀ (w : Diw) (op1 op2 op3 : Field) (s : State),
    w.extractLsb' 0 4 = 4#4 → w.extractLsb' 32 32 = op1 → w.extractLsb' 64 32 = op2 → w.extractLsb' 96 32 = op3 →
    decode w = .mul op1 op2 op3 ∧
    (∀ f, firstBad [op1, op2, op3] = some f → exec (.mul op1 op2 op3) s = .next (badRegisterStop s f)) ∧
    (∀ (h1 : op1.toNat < 16) (h2 : op2.toNat < 16) (h3 : op3.toNat < 16),
      exec (.mul op1 op2 op3) s =
        .next (resultState s op1.toNat (BitVec.ofInt 32 (s.x[op2.toNat].toInt * s.x[op3.toNat].toInt)) h1))

/-- 42_arithmetic R125 (the wrap of R122 is the spec's decision D7). -/
def Obligations.MacResult : Prop :=
  ∀ (w : Diw) (op1 op2 op3 : Field) (s : State),
    w.extractLsb' 0 4 = 5#4 → w.extractLsb' 32 32 = op1 → w.extractLsb' 64 32 = op2 → w.extractLsb' 96 32 = op3 →
    decode w = .mac op1 op2 op3 ∧
    (∀ f, firstBad [op1, op2, op3] = some f → exec (.mac op1 op2 op3) s = .next (badRegisterStop s f)) ∧
    (∀ (h1 : op1.toNat < 16) (h2 : op2.toNat < 16) (h3 : op3.toNat < 16),
      exec (.mac op1 op2 op3) s =
        .next (resultState s op1.toNat
          (BitVec.ofInt 32 (s.x[op1.toNat].toInt + s.x[op2.toNat].toInt * s.x[op3.toNat].toInt)) h1))

/-- 43_io_and_control R130: the pin index is the full signed register value. -/
def Obligations.OutResult : Prop :=
  ∀ (w : Diw) (op1 op2 : Field) (s : State),
    w.extractLsb' 0 4 = 6#4 → w.extractLsb' 32 32 = op1 → w.extractLsb' 64 32 = op2 →
    decode w = .out op1 op2 ∧
    (∀ f, firstBad [op1, op2] = some f → exec (.out op1 op2) s = .next (badRegisterStop s f)) ∧
    (∀ (_ : op1.toNat < 16) (_ : op2.toNat < 16),
      (∀ p : Fin 16, s.x[op1.toNat].toInt = (p.val : Int) →
        exec (.out op1 op2) s =
          .next { s with gpio := s.gpio.set p.val s.x[op2.toNat], pinEvt := some ⟨p, s.x[op2.toNat]⟩ }) ∧
      (s.x[op1.toNat].toInt < 0 ∨ 16 ≤ s.x[op1.toNat].toInt →
        exec (.out op1 op2) s = .next { s with diag := some ⟨.gpioWriteRange, s.x[op1.toNat]⟩ }))

/-- 43_io_and_control R131 (the spec's decisions D12, D14): HALT only stops the engine, whatever its operand fields; the
cycle's fetch and shift are still performed, no later edge executes anything; a HALT of index `h` ends the run at the
end of cycle `h + 3` with `pc` = min(h + 3, N). -/
def Obligations.HaltResult : Prop :=
  ∀ (w : Diw) (s : State), w.extractLsb' 0 4 = 7#4 →
    decode w = .halt ∧
    exec .halt s = .next { s with running := false, stopReason := .halted } ∧
    (Cycling s → s.slots[2] = some w →
      step s = .next { advance (fetch (clearPorts s)) with running := false, stopReason := .halted } ∧
      (∀ k, runFor (k + 2) s = .next { advance (fetch (clearPorts s)) with
        running := false, stopReason := .halted, ifPort := none })) ∧
    (∀ h : Nat, Cycling s → AfterCycles (h + 2) s → s.imem[h]? = some w → ∃ t, step s = .next t ∧
      t.running = false ∧ t.stopReason = .halted ∧ AfterCycles (h + 3) t ∧ t.pc.toNat = min (h + 3) s.imem.length)

/-- 43_io_and_control R132 (the spec's decisions D13 to D15): a NOP that Execute takes is the fatal stop with info 0; the
cycle's fetch and shift are still performed. -/
def Obligations.NopResult : Prop :=
  ∀ (w : Diw) (s : State), w.extractLsb' 0 4 = 0#4 →
    decode w = .nop ∧
    exec .nop s = .next { s with
      running := false, stopReason := .faultUnknownOpcode, diag := some ⟨.unknownOpcode, 0⟩ } ∧
    (Cycling s → s.slots[2] = some w →
      step s = .next (unknownOpcodeStop (advance (fetch (clearPorts s))) 0))

/-- 43_io_and_control R133 (the spec's decisions D2, D13 to D15): opcodes 8 to 15, each under its constructor, are the
fatal stop with the opcode as info; the cycle's fetch and shift are still performed. -/
def Obligations.UnrecognizedOpcodeResult : Prop :=
  ∀ (w : Diw) (s : State) (op : Opcode), w.extractLsb' 0 4 = op → 8#4 ≤ op →
    (op = 8#4 → decode w = .invalid ∧ exec .invalid s = .next (unknownOpcodeStop s op)) ∧
    (op = 9#4 → decode w = .unassigned9 ∧ exec .unassigned9 s = .next (unknownOpcodeStop s op)) ∧
    (op = 10#4 ∨ op = 11#4 →
      decode w = .unassigned10to11 op ∧ exec (.unassigned10to11 op) s = .next (unknownOpcodeStop s op)) ∧
    (12#4 ≤ op →
      decode w = .unassigned12to15 op ∧ exec (.unassigned12to15 op) s = .next (unknownOpcodeStop s op)) ∧
    (Cycling s → s.slots[2] = some w →
      step s = .next (unknownOpcodeStop (advance (fetch (clearPorts s))) op))

/-- 40_pipeline R95, 60_exceptions R141, R148: every instruction, on every operand and state, leaves a next state. -/
def Obligations.EveryInstructionCompletes : Prop :=
  ∀ (i : Instr) (s : State), ∃ t, exec i s = .next t

/-! ## Fatal stops -/

/-- 60_exceptions R143, 10_state R25 (the spec's decisions D5, D14, D15): a used register field outside 0..15 stops the
run with stop_reason 4 and diagnostic 6, which names the first such field, and with no other effect; nothing else does
so. -/
def Obligations.BadRegisterStopsBeforeAnyEffect : Prop :=
  ∀ (i : Instr) (s : State),
    (∀ f, firstBad i.regFields = some f → exec i s = .next (badRegisterStop s f) ∧
      (badRegisterStop s f).stopReasonPort = 4 ∧ (badRegisterStop s f).diagCode = some 6 ∧
      (badRegisterStop s f).diagInfo = some f) ∧
    (firstBad i.regFields = none → ∀ t, exec i s = .next t →
      (t.stopReason = .faultBadRegister → s.stopReason = .faultBadRegister) ∧
      (∀ v, t.diag = some ⟨.badRegister, v⟩ → s.diag = some ⟨.badRegister, v⟩))

/-- 60_exceptions R142 (the spec's decisions D2, D14, D15): an opcode that names no operation stops the run with
stop_reason 3 and diagnostic 5, which carries the opcode, and with no other effect; no other instruction does so, and
over a whole clock edge, its Fetch included, it happens in a cycle with such an opcode in slot 2 and only there. -/
def Obligations.UnknownOpcodeStops : Prop :=
  (∀ (i : Instr) (s : State),
    (i.opcodeKnown = false → exec i s = .next (unknownOpcodeStop s i.opcode) ∧
      (unknownOpcodeStop s i.opcode).stopReasonPort = 3 ∧ (unknownOpcodeStop s i.opcode).diagCode = some 5 ∧
      (unknownOpcodeStop s i.opcode).diagInfo = some (i.opcode.setWidth 32)) ∧
    (i.opcodeKnown = true → ∀ t, exec i s = .next t →
      (t.stopReason = .faultUnknownOpcode → s.stopReason = .faultUnknownOpcode) ∧
      (∀ v, t.diag = some ⟨.unknownOpcode, v⟩ → s.diag = some ⟨.unknownOpcode, v⟩))) ∧
  (∀ s t : State, step s = .next t →
    (∀ v, t.diag = some ⟨.unknownOpcode, v⟩ ↔ Cycling s ∧
      ∃ w, s.slots[2] = some w ∧ (decode w).opcodeKnown = false ∧ v = (decode w).opcode.setWidth 32) ∧
    (t.stopReason = .faultUnknownOpcode → s.stopReason = .faultUnknownOpcode ∨
      (Cycling s ∧ ∃ w, s.slots[2] = some w ∧ (decode w).opcodeKnown = false)))

/-- 60_exceptions R141 (the spec's decisions D13 to D15): a fatal stop records its reason and reports it in its cycle,
the cycle's fetch and shift are still performed, no drain test fires, nothing else changes; the stopped state then
persists. -/
def Obligations.FatalStopFinishesItsCycle : Prop :=
  ∀ (s : State) (w : Diw), Cycling s → s.slots[2] = some w →
    (∀ f, firstBad (decode w).regFields = some f →
      step s = .next (badRegisterStop (advance (fetch (clearPorts s))) f) ∧
      ∀ k, runFor (k + 2) s = .next { badRegisterStop (advance (fetch (clearPorts s))) f with
        ifPort := none, diag := none }) ∧
    ((decode w).opcodeKnown = false →
      step s = .next (unknownOpcodeStop (advance (fetch (clearPorts s))) (decode w).opcode) ∧
      ∀ k, runFor (k + 2) s = .next { unknownOpcodeStop (advance (fetch (clearPorts s))) (decode w).opcode with
        ifPort := none, diag := none })

/-! ## Flags and arithmetic -/

/-- 42_arithmetic R120: LOAD, ADD, MUL and MAC write all three flags, from the value they leave in their destination
register; every other instruction, a fatal stop and an empty Execute slot write none. -/
def Obligations.FlagsFollowTheWrittenResult : Prop :=
  (∀ (i : Instr) (s t : State) (d : Field) (h : d.toNat < 16), exec i s = .next t → i.regsValid = true →
    ((∃ v, i = .loadImmediate d v) ∨ (∃ a, i = .loadRegister d a) ∨ (∃ a b, i = .add d a b) ∨
      (∃ a b, i = .mul d a b) ∨ (∃ a b, i = .mac d a b)) →
    t.z = decide (t.x[d.toNat] = 0) ∧ t.nf = decide (t.x[d.toNat].toInt < 0) ∧ t.c = false) ∧
  (∀ (i : Instr) (s t : State), exec i s = .next t →
    (i.regsValid = false ∨ i.opcodeKnown = false ∨ i = .halt ∨ (∃ a b, i = .store a b) ∨ (∃ a b, i = .out a b)) →
    t.z = s.z ∧ t.nf = s.nf ∧ t.c = s.c) ∧
  (∀ s t : State, Cycling s → s.slots[2] = none → step s = .next t → t.z = s.z ∧ t.nf = s.nf ∧ t.c = s.c)

/-- 42_arithmetic R121: every instruction that writes the flags writes the carry flag false, whatever its result and
whatever the flag was; no instruction sets it, and it is false in every state any run reaches. -/
def Obligations.CarryIsNeverSet : Prop :=
  (∀ (i : Instr) (s t : State), exec i s = .next t → i.regsValid = true →
    ((∃ d v, i = .loadImmediate d v) ∨ (∃ d a, i = .loadRegister d a) ∨ (∃ d a b, i = .add d a b) ∨
      (∃ d a b, i = .mul d a b) ∨ (∃ d a b, i = .mac d a b)) → t.c = false) ∧
  (∀ (i : Instr) (s t : State), exec i s = .next t → t.c = true → s.c = true) ∧
  (∀ (prog : List Diw) (k : Nat) (s : State), runFor k (launch prog) = .next s → s.c = false)

/-- 42_arithmetic R122 (the spec's decision D7): the results wrap modulo 2^32, so that reading the operands unsigned
gives the same bits, and MAC gives the same bits when the product is wrapped before the addition; overflow stops and
reports nothing, and the flags come from the wrapped value. -/
def Obligations.ArithmeticWrapsModuloTwoPow32 : Prop :=
  ∀ (op1 op2 op3 : Field) (s : State) (h1 : op1.toNat < 16) (h2 : op2.toNat < 16) (h3 : op3.toNat < 16),
    exec (.add op1 op2 op3) s =
      .next (resultState s op1.toNat (BitVec.ofNat 32 (s.x[op2.toNat].toNat + s.x[op3.toNat].toNat)) h1) ∧
    exec (.mul op1 op2 op3) s =
      .next (resultState s op1.toNat (BitVec.ofNat 32 (s.x[op2.toNat].toNat * s.x[op3.toNat].toNat)) h1) ∧
    exec (.mac op1 op2 op3) s =
      .next (resultState s op1.toNat
        (BitVec.ofNat 32 (s.x[op1.toNat].toNat + s.x[op2.toNat].toNat * s.x[op3.toNat].toNat)) h1) ∧
    exec (.mac op1 op2 op3) s =
      .next (resultState s op1.toNat
        (BitVec.ofInt 32 (s.x[op1.toNat].toInt +
          (BitVec.ofInt 32 (s.x[op2.toNat].toInt * s.x[op3.toNat].toInt)).toInt)) h1)

/-- 10_state R27 (the packing is the spec's decision D24): no instruction reads the flags, so that runs that differ in
them alone differ in them alone after; the status port packs them as {C, Nf, Z}. -/
def Obligations.NoInstructionReadsTheFlags : Prop :=
  (∀ (i : Instr) (s t : State) (z nf c : Bool), exec i s = .next t → ∃ z' nf' c',
    exec i { s with z := z, nf := nf, c := c } = .next { t with z := z', nf := nf', c := c' } ∧
    ((z' = z ∧ nf' = nf ∧ c' = c) ∨ (z' = t.z ∧ nf' = t.nf ∧ c' = t.c))) ∧
  (∀ s : State, s.statusPort.getLsbD 0 = s.z ∧ s.statusPort.getLsbD 1 = s.nf ∧ s.statusPort.getLsbD 2 = s.c)

/-! ## The bus and the pins -/

/-- 20_memory R55. -/
def Obligations.MemoryBankRoundTrip : Prop :=
  ∀ (s : State) (a : BusAddr) (v : Word), a.toNat < 1024 →
    busRead s a = (s.mem.read a.toNat, s) ∧
    (∃ m, busWrite s a v = { s with mem := m } ∧ ∀ b, b ≠ a.toNat → m.read b = s.mem.read b) ∧
    (s.mem.wf = true → busRead (busWrite s a v) a = (v, busWrite s a v))

/-- 20_memory R56. -/
def Obligations.GapIsInert : Prop :=
  ∀ (s : State) (a : BusAddr) (v : Word), 1024 ≤ a.toNat → a.toNat < 0x8000 →
    busRead s a = (0, { s with diag := some ⟨.busReadUnmapped, a.setWidth 32⟩ }) ∧
    busWrite s a v = { s with diag := some ⟨.busWriteUnmapped, a.setWidth 32⟩ } ∧
    ∀ b : BusAddr, (busRead (busWrite s a v) b).1 = (busRead s b).1

/-- 20_memory R57: a bus access never stops the engine, at any address; an invalid one is reported and goes on with 0
read or nothing written. -/
def Obligations.BusAccessNeverStops : Prop :=
  ∀ (s : State) (a : BusAddr) (v : Word),
    (busRead s a).2.running = s.running ∧ (busRead s a).2.stopReason = s.stopReason ∧
    (busWrite s a v).running = s.running ∧ (busWrite s a v).stopReason = s.stopReason ∧
    ((1024 ≤ a.toNat ∧ a.toNat < 0x8000) ∨ 0x8010 ≤ a.toNat →
      (busRead s a).1 = 0 ∧ (∃ d, (busRead s a).2 = { s with diag := some d }) ∧
      ∃ d, busWrite s a v = { s with diag := some d })

/-- 20_memory R58 (the event on every write is the spec's decision D16). -/
def Obligations.GpioWriteStoresAndEmits : Prop :=
  ∀ (s : State) (pin : Int) (v : Word),
    (∀ p : Fin 16, pin = (p.val : Int) →
      gpioWrite s pin v = { s with gpio := s.gpio.set p.val v, pinEvt := some ⟨p, v⟩ }) ∧
    (pin < 0 ∨ 16 ≤ pin → gpioWrite s pin v = { s with diag := some ⟨.gpioWriteRange, BitVec.ofInt 32 pin⟩ })

/-- 20_memory R59, 95_test_vectors S2: a pin in range reads the value last written to it, also through its bus address,
with no report and no event; a pin out of range reads 0 and is reported. -/
def Obligations.GpioRoundTrip : Prop :=
  ∀ (s : State) (pin : Int) (v : Word),
    (∀ p : Fin 16, pin = (p.val : Int) →
      gpioRead (gpioWrite s pin v) pin = (v, gpioWrite s pin v) ∧
      busRead (gpioWrite s pin v) (BitVec.ofNat 16 (0x8000 + p.val)) = (v, gpioWrite s pin v) ∧
      ∀ q : Fin 16, q ≠ p → (gpioWrite s pin v).gpio[q] = s.gpio[q]) ∧
    (pin < 0 ∨ 16 ≤ pin → gpioRead s pin = (0, { s with diag := some ⟨.gpioReadRange, BitVec.ofInt 32 pin⟩ }))

/-- 60_exceptions R146: a cycle emits at most one event: never a diagnostic and a pin change together, and an
instruction of 10_state R21's register writers, HALT or an empty slot no pin change. -/
def Obligations.AtMostOneEventPerCycle : Prop :=
  ∀ s t : State, Cycling s → step s = .next t →
    (t.diag = none ∨ t.pinEvt = none) ∧
    (t.pinEvt ≠ none → ∃ w op1 op2, s.slots[2] = some w ∧ (decode w = .store op1 op2 ∨ decode w = .out op1 op2))

/-! ## Frames -/

/-- 10_state R21, R26, 42_arithmetic R120: the frame of LOAD (both forms), ADD, MUL and MAC: every register but `op1`'s,
every word of memory, every pin, the engine and the pin-change port are as before; the diagnostic port too, but for a
LOAD from the bus and a stop; with valid fields the run goes on. -/
def Obligations.FrameOfRegisterWriters : Prop :=
  ∀ (i : Instr) (d : Field) (s t : State), exec i s = .next t →
    ((∃ v, i = .loadImmediate d v) ∨ (∃ a, i = .loadRegister d a) ∨ (∃ a b, i = .add d a b) ∨
      (∃ a b, i = .mul d a b) ∨ (∃ a b, i = .mac d a b)) →
    (∀ r : Fin 16, r.val ≠ d.toNat → t.x[r] = s.x[r]) ∧
    (∀ a : Nat, t.mem.read a = s.mem.read a) ∧ t.gpio = s.gpio ∧ t.pinEvt = s.pinEvt ∧ EngineSame s t ∧
    (i.regsValid = true → t.running = s.running ∧ t.stopReason = s.stopReason) ∧
    (i.regsValid = true → (∀ a, i ≠ .loadRegister d a) → t.diag = s.diag) ∧
    (i.regsValid = false → t.x = s.x ∧ t.z = s.z ∧ t.nf = s.nf ∧ t.c = s.c)

/-- 41_data_transfer R112: the frame of STORE: every register and flag is as before, and the engine; with valid fields
the run goes on, and with `a` the bus address the meaning forms, every word of memory but the one at `a`, and every pin
but the one at `a`, is as before; where `a` is no Memory Bank address, all of memory is. -/
def Obligations.FrameOfStore : Prop :=
  ∀ (op1 op2 : Field) (s t : State), exec (.store op1 op2) s = .next t →
    t.x = s.x ∧ t.z = s.z ∧ t.nf = s.nf ∧ t.c = s.c ∧ EngineSame s t ∧
    (Instr.regsValid (.store op1 op2) = false → t.mem = s.mem ∧ t.gpio = s.gpio ∧ t.pinEvt = s.pinEvt) ∧
    (∀ (r v : RegIx) (a : BusAddr), regOf op1 = some r → regOf op2 = some v → busAddrOf (s.readReg r) = a →
      t.running = s.running ∧ t.stopReason = s.stopReason ∧
      (∀ b : Nat, b ≠ a.toNat → t.mem.read b = s.mem.read b) ∧
      (1024 ≤ a.toNat → ∀ b : Nat, t.mem.read b = s.mem.read b) ∧
      (∀ p : Fin 16, 0x8000 + p.val ≠ a.toNat → t.gpio[p] = s.gpio[p]) ∧
      (a.toNat < 1024 → t.diag = s.diag ∧ t.pinEvt = s.pinEvt))

/-- 43_io_and_control R130: the frame of OUT: every register, flag and word of memory is as before, and the engine; with
valid fields the run goes on, and with `p` the pin index the meaning forms, every other pin is as before. -/
def Obligations.FrameOfOut : Prop :=
  ∀ (op1 op2 : Field) (s t : State), exec (.out op1 op2) s = .next t →
    t.x = s.x ∧ t.z = s.z ∧ t.nf = s.nf ∧ t.c = s.c ∧ EngineSame s t ∧
    (∀ b : Nat, t.mem.read b = s.mem.read b) ∧
    (Instr.regsValid (.out op1 op2) = false → t.gpio = s.gpio ∧ t.pinEvt = s.pinEvt) ∧
    (∀ (r v : RegIx) (p : Int), regOf op1 = some r → regOf op2 = some v → pinIndexOf (s.readReg r) = p →
      t.running = s.running ∧ t.stopReason = s.stopReason ∧
      (∀ q : Fin 16, (q.val : Int) ≠ p → t.gpio[q] = s.gpio[q]))

/-- 43_io_and_control R131 to R133: the frame of HALT, NOP, INVALID and the unassigned opcodes: every register, flag,
word of memory and pin is as before, and the engine but for its stop. -/
def Obligations.FrameOfStops : Prop :=
  ∀ (i : Instr) (s t : State), exec i s = .next t → (i = .halt ∨ i.opcodeKnown = false) →
    ArchSame s t ∧ (∀ b : Nat, t.mem.read b = s.mem.read b) ∧ EngineSame s t ∧ t.pinEvt = s.pinEvt ∧
    (i = .halt → t.diag = s.diag) ∧ t.running = false

/-- 10_state R29, 40_pipeline R100, 20_memory R66: no instruction writes `pc`, a slot, the program, `rst` or the fetch
port. -/
def Obligations.NoInstructionMovesTheEngine : Prop :=
  ∀ (i : Instr) (s t : State), exec i s = .next t → EngineSame s t

/-! ## Invariants and whole runs -/

/-- The machine's invariant holds at reset. -/
def Obligations.ResetMeetsInvariant : Prop :=
  MachineInv State.reset ∧ ∀ prog : List Diw, MachineInv (launch prog)

/-- 10_state R28, R29, R31, R33, R34: every step keeps the machine's invariant, from every state that meets it. -/
def Obligations.StepKeepsInvariant : Prop :=
  ∀ s t : State, MachineInv s → step s = .next t → MachineInv t

/-- 40_pipeline R99: from a state whose fetch state is that of `n` cycles, a cycle executes the instruction `n - 2`
(the one fetched two cycles before), leaves the fetch state of `n + 1` cycles, and so keeps the timeline. -/
def Obligations.CycleKeepsTheTimeline : Prop :=
  ∀ (n : Nat) (s t : State), Cycling s → AfterCycles n s → step s = .next t →
    AfterCycles (n + 1) t ∧
    executing (beginCycle s) = if 2 ≤ n then s.imem[n - 2]?.map decode else none

/-- 70_reset R178 (with the spec's decision D11), 40_pipeline R97: the fill and drain law: N >= 1 instructions none of
which stops the run drain in exactly N + 3 cycles, with all slots empty and `pc` = N; the empty program in 1. -/
def Obligations.FillDrainLaw : Prop :=
  ∀ s : State, Launched s →
    (1 ≤ s.imem.length → (∀ w ∈ s.imem, (decode w).goesOn = true) →
      (∀ k, k < s.imem.length + 3 → ∃ t, runFor k s = .next t ∧ t.running = true) ∧
      ∃ t, runFor (s.imem.length + 3) s = .next t ∧ t.running = false ∧ t.stopReason = .drained ∧
        t.pc.toNat = s.imem.length ∧ t.slots = #v[none, none, none, none]) ∧
    (s.imem = [] → ∃ t, runFor 1 s = .next t ∧ t.running = false ∧ t.stopReason = .drained ∧ t.pc = 0)

/-- 70_reset R179, 40_pipeline R102, R98: a run whose first stopping instruction has index `h` stops at the end of cycle
`h + 3`, not before, for that instruction's reason, with slots 3, 2, 1 holding instructions `h`, `h + 1`, `h + 2` where
they exist and `pc` = min(h + 3, N); a HALT is a clean end, anything else a faulted one (R103). -/
def Obligations.StopHappensInCycleHPlus3 : Prop :=
  ∀ (s : State) (h : Nat) (w : Diw), Launched s → s.imem[h]? = some w → (decode w).goesOn = false →
    (∀ k v, k < h → s.imem[k]? = some v → (decode v).goesOn = true) →
    (∀ k, k < h + 3 → ∃ t, runFor k s = .next t ∧ t.running = true) ∧
    ∃ t, runFor (h + 3) s = .next t ∧ t.running = false ∧
      t.stopReason = (if decode w = .halt then .halted
        else if (decode w).opcodeKnown then .faultBadRegister else .faultUnknownOpcode) ∧
      t.slots[3] = some w ∧ t.slots[2] = s.imem[h + 1]? ∧ t.slots[1] = s.imem[h + 2]? ∧ t.slots[0] = none ∧
      t.pc.toNat = min (h + 3) s.imem.length ∧ (if decode w = .halt then t.CleanEnd else t.FaultedEnd)

/-- 20_memory R64, 40_pipeline R101, R103: the pipeline is a strictly sequential machine: every run ends, within N + 3
cycles (1 for the empty program), and the registers, flags, memory and pins it ends with are those of executing the
program's instructions one after another, with no pipeline, until one stops the engine; the stop reason is that
instruction's, or DRAINED. -/
def Obligations.PipelineRefinesSequentialExecution : Prop :=
  ∀ s : State, Launched s →
    ∃ k t, 1 ≤ k ∧ k ≤ (if s.imem = [] then 1 else s.imem.length + 3) ∧ runFor k s = .next t ∧
      t.running = false ∧ ArchSame (seqRun s.imem s) t ∧
      t.stopReason = if (seqRun s.imem s).running then .drained else (seqRun s.imem s).stopReason
end

