-- ==== Sys2Proof/Laws/Decode.lean ====
section
/-! SUPPORT. The fields of a packed word, and what a mask of the opcode table keeps of it. -/

namespace Sys2Proof

theorem packDiw_getLsbD (op : Opcode) (imm : Bool) (a b c : Field) (k : Nat) :
    (packDiw op imm a b c).getLsbD k =
      if k < 4 then op.getLsbD k
      else if k < 5 then imm
      else if k < 32 then false
      else if k < 64 then a.getLsbD (k - 32)
      else if k < 96 then b.getLsbD (k - 64)
      else c.getLsbD (k - 96) := by
  unfold packDiw
  simp only [BitVec.getLsbD_append]
  by_cases h4 : k < 4
  · simp [h4, show k < 32 by omega]
  by_cases h5 : k < 5
  · simp [show k = 4 by omega]
  by_cases h32 : k < 32
  · simp [h4, h5, h32, show ¬k - 4 < 1 by omega]
  by_cases h64 : k < 64
  · simp [h4, h5, h32, h64, show k - 32 < 32 by omega]
  by_cases h96 : k < 96
  · simp [h4, h5, h32, h64, h96, show ¬k - 32 < 32 by omega, show k - 64 < 32 by omega, Nat.sub_sub]
  · simp [h4, h5, h32, h64, h96, show ¬k - 32 < 32 by omega, show ¬k - 64 < 32 by omega, Nat.sub_sub]

@[simp] theorem diwOpcode_packDiw (op : Opcode) (imm : Bool) (a b c : Field) :
    diwOpcode (packDiw op imm a b c) = op := by
  apply BitVec.eq_of_getLsbD_eq
  intro k hk
  simp [diwOpcode, packDiw_getLsbD, hk]

@[simp] theorem diwImm_packDiw (op : Opcode) (imm : Bool) (a b c : Field) :
    diwImm (packDiw op imm a b c) = imm := by
  rw [diwImm, packDiw_getLsbD]
  simp

@[simp] theorem diwOp1_packDiw (op : Opcode) (imm : Bool) (a b c : Field) :
    diwOp1 (packDiw op imm a b c) = a := by
  apply BitVec.eq_of_getLsbD_eq
  intro k hk
  simp [diwOp1, packDiw_getLsbD, hk, show ¬32 + k < 4 by omega, show ¬32 + k < 5 by omega,
    show 32 + k < 64 by simp only [Config.xlen] at hk; omega]

@[simp] theorem diwOp2_packDiw (op : Opcode) (imm : Bool) (a b c : Field) :
    diwOp2 (packDiw op imm a b c) = b := by
  apply BitVec.eq_of_getLsbD_eq
  intro k hk
  simp [diwOp2, packDiw_getLsbD, hk, show ¬64 + k < 4 by omega, show ¬64 + k < 5 by omega,
    show ¬64 + k < 32 by omega, show 64 + k < 96 by simp only [Config.xlen] at hk; omega]

@[simp] theorem diwOp3_packDiw (op : Opcode) (imm : Bool) (a b c : Field) :
    diwOp3 (packDiw op imm a b c) = c := by
  apply BitVec.eq_of_getLsbD_eq
  intro k hk
  simp [diwOp3, packDiw_getLsbD, hk, show ¬96 + k < 4 by omega, show ¬96 + k < 5 by omega,
    show ¬96 + k < 32 by omega, show ¬96 + k < 64 by omega]

/-- A mask within bits 4..0, as every mask of the opcode table is, sees only the opcode and the `imm` bit. -/
theorem packDiw_and_low (op : Opcode) (imm : Bool) (a b c : Field) (m : BitVec 5) :
    packDiw op imm a b c &&& m.setWidth 128 = ((BitVec.ofBool imm ++ op) &&& m).setWidth 128 := by
  apply BitVec.eq_of_getLsbD_eq
  intro k hk
  simp only [BitVec.getLsbD_and, BitVec.getLsbD_setWidth, packDiw_getLsbD, hk, BitVec.getLsbD_append]
  by_cases h4 : k < 4
  · simp [h4]
  by_cases h5 : k < 5
  · simp [show k = 4 by omega]
  · simp [BitVec.getLsbD_of_ge m k (by omega)]

end Sys2Proof
end

