-- ==== Sys2Proof/Laws/State.lean ====
section
/-! SUPPORT. One lemma per field per update of the state, each true by rfl. -/

namespace Sys2Proof.Machine

/-! What `State.writeReg` leaves in each field. -/

@[simp] theorem State.writeReg_x (s : State) (r : RegIx) (v : Word) : (s.writeReg r v).x = s.x.set r v := rfl
@[simp] theorem State.writeReg_z (s : State) (r : RegIx) (v : Word) : (s.writeReg r v).z = s.z := rfl
@[simp] theorem State.writeReg_nf (s : State) (r : RegIx) (v : Word) : (s.writeReg r v).nf = s.nf := rfl
@[simp] theorem State.writeReg_c (s : State) (r : RegIx) (v : Word) : (s.writeReg r v).c = s.c := rfl
@[simp] theorem State.writeReg_pc (s : State) (r : RegIx) (v : Word) : (s.writeReg r v).pc = s.pc := rfl
@[simp] theorem State.writeReg_slots (s : State) (r : RegIx) (v : Word) : (s.writeReg r v).slots = s.slots := rfl
@[simp] theorem State.writeReg_running (s : State) (r : RegIx) (v : Word) : (s.writeReg r v).running = s.running := rfl
@[simp] theorem State.writeReg_stopReason (s : State) (r : RegIx) (v : Word) : (s.writeReg r v).stopReason = s.stopReason := rfl
@[simp] theorem State.writeReg_mem (s : State) (r : RegIx) (v : Word) : (s.writeReg r v).mem = s.mem := rfl
@[simp] theorem State.writeReg_gpio (s : State) (r : RegIx) (v : Word) : (s.writeReg r v).gpio = s.gpio := rfl
@[simp] theorem State.writeReg_imem (s : State) (r : RegIx) (v : Word) : (s.writeReg r v).imem = s.imem := rfl
@[simp] theorem State.writeReg_rst (s : State) (r : RegIx) (v : Word) : (s.writeReg r v).rst = s.rst := rfl
@[simp] theorem State.writeReg_ifPort (s : State) (r : RegIx) (v : Word) : (s.writeReg r v).ifPort = s.ifPort := rfl
@[simp] theorem State.writeReg_diag (s : State) (r : RegIx) (v : Word) : (s.writeReg r v).diag = s.diag := rfl
@[simp] theorem State.writeReg_pinEvt (s : State) (r : RegIx) (v : Word) : (s.writeReg r v).pinEvt = s.pinEvt := rfl

/-! What `State.setFlags` leaves in each field. -/

@[simp] theorem State.setFlags_x (s : State) (z nf c : Bool) : (s.setFlags z nf c).x = s.x := rfl
@[simp] theorem State.setFlags_z (s : State) (z nf c : Bool) : (s.setFlags z nf c).z = z := rfl
@[simp] theorem State.setFlags_nf (s : State) (z nf c : Bool) : (s.setFlags z nf c).nf = nf := rfl
@[simp] theorem State.setFlags_c (s : State) (z nf c : Bool) : (s.setFlags z nf c).c = c := rfl
@[simp] theorem State.setFlags_pc (s : State) (z nf c : Bool) : (s.setFlags z nf c).pc = s.pc := rfl
@[simp] theorem State.setFlags_slots (s : State) (z nf c : Bool) : (s.setFlags z nf c).slots = s.slots := rfl
@[simp] theorem State.setFlags_running (s : State) (z nf c : Bool) : (s.setFlags z nf c).running = s.running := rfl
@[simp] theorem State.setFlags_stopReason (s : State) (z nf c : Bool) : (s.setFlags z nf c).stopReason = s.stopReason := rfl
@[simp] theorem State.setFlags_mem (s : State) (z nf c : Bool) : (s.setFlags z nf c).mem = s.mem := rfl
@[simp] theorem State.setFlags_gpio (s : State) (z nf c : Bool) : (s.setFlags z nf c).gpio = s.gpio := rfl
@[simp] theorem State.setFlags_imem (s : State) (z nf c : Bool) : (s.setFlags z nf c).imem = s.imem := rfl
@[simp] theorem State.setFlags_rst (s : State) (z nf c : Bool) : (s.setFlags z nf c).rst = s.rst := rfl
@[simp] theorem State.setFlags_ifPort (s : State) (z nf c : Bool) : (s.setFlags z nf c).ifPort = s.ifPort := rfl
@[simp] theorem State.setFlags_diag (s : State) (z nf c : Bool) : (s.setFlags z nf c).diag = s.diag := rfl
@[simp] theorem State.setFlags_pinEvt (s : State) (z nf c : Bool) : (s.setFlags z nf c).pinEvt = s.pinEvt := rfl

/-! What `State.writeMem` leaves in each field. -/

@[simp] theorem State.writeMem_x (s : State) (a : Nat) (v : Word) : (s.writeMem a v).x = s.x := rfl
@[simp] theorem State.writeMem_z (s : State) (a : Nat) (v : Word) : (s.writeMem a v).z = s.z := rfl
@[simp] theorem State.writeMem_nf (s : State) (a : Nat) (v : Word) : (s.writeMem a v).nf = s.nf := rfl
@[simp] theorem State.writeMem_c (s : State) (a : Nat) (v : Word) : (s.writeMem a v).c = s.c := rfl
@[simp] theorem State.writeMem_pc (s : State) (a : Nat) (v : Word) : (s.writeMem a v).pc = s.pc := rfl
@[simp] theorem State.writeMem_slots (s : State) (a : Nat) (v : Word) : (s.writeMem a v).slots = s.slots := rfl
@[simp] theorem State.writeMem_running (s : State) (a : Nat) (v : Word) : (s.writeMem a v).running = s.running := rfl
@[simp] theorem State.writeMem_stopReason (s : State) (a : Nat) (v : Word) : (s.writeMem a v).stopReason = s.stopReason := rfl
@[simp] theorem State.writeMem_mem (s : State) (a : Nat) (v : Word) : (s.writeMem a v).mem = s.mem.write a v := rfl
@[simp] theorem State.writeMem_gpio (s : State) (a : Nat) (v : Word) : (s.writeMem a v).gpio = s.gpio := rfl
@[simp] theorem State.writeMem_imem (s : State) (a : Nat) (v : Word) : (s.writeMem a v).imem = s.imem := rfl
@[simp] theorem State.writeMem_rst (s : State) (a : Nat) (v : Word) : (s.writeMem a v).rst = s.rst := rfl
@[simp] theorem State.writeMem_ifPort (s : State) (a : Nat) (v : Word) : (s.writeMem a v).ifPort = s.ifPort := rfl
@[simp] theorem State.writeMem_diag (s : State) (a : Nat) (v : Word) : (s.writeMem a v).diag = s.diag := rfl
@[simp] theorem State.writeMem_pinEvt (s : State) (a : Nat) (v : Word) : (s.writeMem a v).pinEvt = s.pinEvt := rfl

/-! What `State.writePin` leaves in each field. -/

@[simp] theorem State.writePin_x (s : State) (p : PinIx) (v : Word) : (s.writePin p v).x = s.x := rfl
@[simp] theorem State.writePin_z (s : State) (p : PinIx) (v : Word) : (s.writePin p v).z = s.z := rfl
@[simp] theorem State.writePin_nf (s : State) (p : PinIx) (v : Word) : (s.writePin p v).nf = s.nf := rfl
@[simp] theorem State.writePin_c (s : State) (p : PinIx) (v : Word) : (s.writePin p v).c = s.c := rfl
@[simp] theorem State.writePin_pc (s : State) (p : PinIx) (v : Word) : (s.writePin p v).pc = s.pc := rfl
@[simp] theorem State.writePin_slots (s : State) (p : PinIx) (v : Word) : (s.writePin p v).slots = s.slots := rfl
@[simp] theorem State.writePin_running (s : State) (p : PinIx) (v : Word) : (s.writePin p v).running = s.running := rfl
@[simp] theorem State.writePin_stopReason (s : State) (p : PinIx) (v : Word) : (s.writePin p v).stopReason = s.stopReason := rfl
@[simp] theorem State.writePin_mem (s : State) (p : PinIx) (v : Word) : (s.writePin p v).mem = s.mem := rfl
@[simp] theorem State.writePin_gpio (s : State) (p : PinIx) (v : Word) : (s.writePin p v).gpio = s.gpio.set p v := rfl
@[simp] theorem State.writePin_imem (s : State) (p : PinIx) (v : Word) : (s.writePin p v).imem = s.imem := rfl
@[simp] theorem State.writePin_rst (s : State) (p : PinIx) (v : Word) : (s.writePin p v).rst = s.rst := rfl
@[simp] theorem State.writePin_ifPort (s : State) (p : PinIx) (v : Word) : (s.writePin p v).ifPort = s.ifPort := rfl
@[simp] theorem State.writePin_diag (s : State) (p : PinIx) (v : Word) : (s.writePin p v).diag = s.diag := rfl
@[simp] theorem State.writePin_pinEvt (s : State) (p : PinIx) (v : Word) : (s.writePin p v).pinEvt = s.pinEvt := rfl

/-! What `State.pinEvent` leaves in each field. -/

@[simp] theorem State.pinEvent_x (s : State) (p : PinIx) (v : Word) : (s.pinEvent p v).x = s.x := rfl
@[simp] theorem State.pinEvent_z (s : State) (p : PinIx) (v : Word) : (s.pinEvent p v).z = s.z := rfl
@[simp] theorem State.pinEvent_nf (s : State) (p : PinIx) (v : Word) : (s.pinEvent p v).nf = s.nf := rfl
@[simp] theorem State.pinEvent_c (s : State) (p : PinIx) (v : Word) : (s.pinEvent p v).c = s.c := rfl
@[simp] theorem State.pinEvent_pc (s : State) (p : PinIx) (v : Word) : (s.pinEvent p v).pc = s.pc := rfl
@[simp] theorem State.pinEvent_slots (s : State) (p : PinIx) (v : Word) : (s.pinEvent p v).slots = s.slots := rfl
@[simp] theorem State.pinEvent_running (s : State) (p : PinIx) (v : Word) : (s.pinEvent p v).running = s.running := rfl
@[simp] theorem State.pinEvent_stopReason (s : State) (p : PinIx) (v : Word) : (s.pinEvent p v).stopReason = s.stopReason := rfl
@[simp] theorem State.pinEvent_mem (s : State) (p : PinIx) (v : Word) : (s.pinEvent p v).mem = s.mem := rfl
@[simp] theorem State.pinEvent_gpio (s : State) (p : PinIx) (v : Word) : (s.pinEvent p v).gpio = s.gpio := rfl
@[simp] theorem State.pinEvent_imem (s : State) (p : PinIx) (v : Word) : (s.pinEvent p v).imem = s.imem := rfl
@[simp] theorem State.pinEvent_rst (s : State) (p : PinIx) (v : Word) : (s.pinEvent p v).rst = s.rst := rfl
@[simp] theorem State.pinEvent_ifPort (s : State) (p : PinIx) (v : Word) : (s.pinEvent p v).ifPort = s.ifPort := rfl
@[simp] theorem State.pinEvent_diag (s : State) (p : PinIx) (v : Word) : (s.pinEvent p v).diag = s.diag := rfl
@[simp] theorem State.pinEvent_pinEvt (s : State) (p : PinIx) (v : Word) : (s.pinEvent p v).pinEvt = some ⟨p, v⟩ := rfl

/-! What `State.report` leaves in each field. -/

@[simp] theorem State.report_x (s : State) (code : DiagCode) (info : Word) : (s.report code info).x = s.x := rfl
@[simp] theorem State.report_z (s : State) (code : DiagCode) (info : Word) : (s.report code info).z = s.z := rfl
@[simp] theorem State.report_nf (s : State) (code : DiagCode) (info : Word) : (s.report code info).nf = s.nf := rfl
@[simp] theorem State.report_c (s : State) (code : DiagCode) (info : Word) : (s.report code info).c = s.c := rfl
@[simp] theorem State.report_pc (s : State) (code : DiagCode) (info : Word) : (s.report code info).pc = s.pc := rfl
@[simp] theorem State.report_slots (s : State) (code : DiagCode) (info : Word) : (s.report code info).slots = s.slots := rfl
@[simp] theorem State.report_running (s : State) (code : DiagCode) (info : Word) : (s.report code info).running = s.running := rfl
@[simp] theorem State.report_stopReason (s : State) (code : DiagCode) (info : Word) : (s.report code info).stopReason = s.stopReason := rfl
@[simp] theorem State.report_mem (s : State) (code : DiagCode) (info : Word) : (s.report code info).mem = s.mem := rfl
@[simp] theorem State.report_gpio (s : State) (code : DiagCode) (info : Word) : (s.report code info).gpio = s.gpio := rfl
@[simp] theorem State.report_imem (s : State) (code : DiagCode) (info : Word) : (s.report code info).imem = s.imem := rfl
@[simp] theorem State.report_rst (s : State) (code : DiagCode) (info : Word) : (s.report code info).rst = s.rst := rfl
@[simp] theorem State.report_ifPort (s : State) (code : DiagCode) (info : Word) : (s.report code info).ifPort = s.ifPort := rfl
@[simp] theorem State.report_diag (s : State) (code : DiagCode) (info : Word) : (s.report code info).diag = some ⟨code, info⟩ := rfl
@[simp] theorem State.report_pinEvt (s : State) (code : DiagCode) (info : Word) : (s.report code info).pinEvt = s.pinEvt := rfl

/-! What `State.stop` leaves in each field. -/

@[simp] theorem State.stop_x (s : State) (reason : StopReason) : (s.stop reason).x = s.x := rfl
@[simp] theorem State.stop_z (s : State) (reason : StopReason) : (s.stop reason).z = s.z := rfl
@[simp] theorem State.stop_nf (s : State) (reason : StopReason) : (s.stop reason).nf = s.nf := rfl
@[simp] theorem State.stop_c (s : State) (reason : StopReason) : (s.stop reason).c = s.c := rfl
@[simp] theorem State.stop_pc (s : State) (reason : StopReason) : (s.stop reason).pc = s.pc := rfl
@[simp] theorem State.stop_slots (s : State) (reason : StopReason) : (s.stop reason).slots = s.slots := rfl
@[simp] theorem State.stop_running (s : State) (reason : StopReason) : (s.stop reason).running = false := rfl
@[simp] theorem State.stop_stopReason (s : State) (reason : StopReason) : (s.stop reason).stopReason = reason := rfl
@[simp] theorem State.stop_mem (s : State) (reason : StopReason) : (s.stop reason).mem = s.mem := rfl
@[simp] theorem State.stop_gpio (s : State) (reason : StopReason) : (s.stop reason).gpio = s.gpio := rfl
@[simp] theorem State.stop_imem (s : State) (reason : StopReason) : (s.stop reason).imem = s.imem := rfl
@[simp] theorem State.stop_rst (s : State) (reason : StopReason) : (s.stop reason).rst = s.rst := rfl
@[simp] theorem State.stop_ifPort (s : State) (reason : StopReason) : (s.stop reason).ifPort = s.ifPort := rfl
@[simp] theorem State.stop_diag (s : State) (reason : StopReason) : (s.stop reason).diag = s.diag := rfl
@[simp] theorem State.stop_pinEvt (s : State) (reason : StopReason) : (s.stop reason).pinEvt = s.pinEvt := rfl

/-! What `updateStatus` leaves in each field. -/

@[simp] theorem updateStatus_x (s : State) (v : Word) : (updateStatus s v).x = s.x := rfl
@[simp] theorem updateStatus_z (s : State) (v : Word) : (updateStatus s v).z = statusZ v := rfl
@[simp] theorem updateStatus_nf (s : State) (v : Word) : (updateStatus s v).nf = statusN v := rfl
@[simp] theorem updateStatus_c (s : State) (v : Word) : (updateStatus s v).c = false := rfl
@[simp] theorem updateStatus_pc (s : State) (v : Word) : (updateStatus s v).pc = s.pc := rfl
@[simp] theorem updateStatus_slots (s : State) (v : Word) : (updateStatus s v).slots = s.slots := rfl
@[simp] theorem updateStatus_running (s : State) (v : Word) : (updateStatus s v).running = s.running := rfl
@[simp] theorem updateStatus_stopReason (s : State) (v : Word) : (updateStatus s v).stopReason = s.stopReason := rfl
@[simp] theorem updateStatus_mem (s : State) (v : Word) : (updateStatus s v).mem = s.mem := rfl
@[simp] theorem updateStatus_gpio (s : State) (v : Word) : (updateStatus s v).gpio = s.gpio := rfl
@[simp] theorem updateStatus_imem (s : State) (v : Word) : (updateStatus s v).imem = s.imem := rfl
@[simp] theorem updateStatus_rst (s : State) (v : Word) : (updateStatus s v).rst = s.rst := rfl
@[simp] theorem updateStatus_ifPort (s : State) (v : Word) : (updateStatus s v).ifPort = s.ifPort := rfl
@[simp] theorem updateStatus_diag (s : State) (v : Word) : (updateStatus s v).diag = s.diag := rfl
@[simp] theorem updateStatus_pinEvt (s : State) (v : Word) : (updateStatus s v).pinEvt = s.pinEvt := rfl

/-! What `writeResult` leaves in each field. -/

@[simp] theorem writeResult_x (s : State) (d : RegIx) (v : Word) : (writeResult s d v).x = s.x.set d v := rfl
@[simp] theorem writeResult_z (s : State) (d : RegIx) (v : Word) : (writeResult s d v).z = statusZ v := rfl
@[simp] theorem writeResult_nf (s : State) (d : RegIx) (v : Word) : (writeResult s d v).nf = statusN v := rfl
@[simp] theorem writeResult_c (s : State) (d : RegIx) (v : Word) : (writeResult s d v).c = false := rfl
@[simp] theorem writeResult_pc (s : State) (d : RegIx) (v : Word) : (writeResult s d v).pc = s.pc := rfl
@[simp] theorem writeResult_slots (s : State) (d : RegIx) (v : Word) : (writeResult s d v).slots = s.slots := rfl
@[simp] theorem writeResult_running (s : State) (d : RegIx) (v : Word) : (writeResult s d v).running = s.running := rfl
@[simp] theorem writeResult_stopReason (s : State) (d : RegIx) (v : Word) : (writeResult s d v).stopReason = s.stopReason := rfl
@[simp] theorem writeResult_mem (s : State) (d : RegIx) (v : Word) : (writeResult s d v).mem = s.mem := rfl
@[simp] theorem writeResult_gpio (s : State) (d : RegIx) (v : Word) : (writeResult s d v).gpio = s.gpio := rfl
@[simp] theorem writeResult_imem (s : State) (d : RegIx) (v : Word) : (writeResult s d v).imem = s.imem := rfl
@[simp] theorem writeResult_rst (s : State) (d : RegIx) (v : Word) : (writeResult s d v).rst = s.rst := rfl
@[simp] theorem writeResult_ifPort (s : State) (d : RegIx) (v : Word) : (writeResult s d v).ifPort = s.ifPort := rfl
@[simp] theorem writeResult_diag (s : State) (d : RegIx) (v : Word) : (writeResult s d v).diag = s.diag := rfl
@[simp] theorem writeResult_pinEvt (s : State) (d : RegIx) (v : Word) : (writeResult s d v).pinEvt = s.pinEvt := rfl

/-! What `raiseFatal` leaves in each field. -/

@[simp] theorem raiseFatal_x (s : State) (f : Fatal) : (raiseFatal s f).x = s.x := rfl
@[simp] theorem raiseFatal_z (s : State) (f : Fatal) : (raiseFatal s f).z = s.z := rfl
@[simp] theorem raiseFatal_nf (s : State) (f : Fatal) : (raiseFatal s f).nf = s.nf := rfl
@[simp] theorem raiseFatal_c (s : State) (f : Fatal) : (raiseFatal s f).c = s.c := rfl
@[simp] theorem raiseFatal_pc (s : State) (f : Fatal) : (raiseFatal s f).pc = s.pc := rfl
@[simp] theorem raiseFatal_slots (s : State) (f : Fatal) : (raiseFatal s f).slots = s.slots := rfl
@[simp] theorem raiseFatal_running (s : State) (f : Fatal) : (raiseFatal s f).running = false := rfl
@[simp] theorem raiseFatal_stopReason (s : State) (f : Fatal) : (raiseFatal s f).stopReason = f.reason := rfl
@[simp] theorem raiseFatal_mem (s : State) (f : Fatal) : (raiseFatal s f).mem = s.mem := rfl
@[simp] theorem raiseFatal_gpio (s : State) (f : Fatal) : (raiseFatal s f).gpio = s.gpio := rfl
@[simp] theorem raiseFatal_imem (s : State) (f : Fatal) : (raiseFatal s f).imem = s.imem := rfl
@[simp] theorem raiseFatal_rst (s : State) (f : Fatal) : (raiseFatal s f).rst = s.rst := rfl
@[simp] theorem raiseFatal_ifPort (s : State) (f : Fatal) : (raiseFatal s f).ifPort = s.ifPort := rfl
@[simp] theorem raiseFatal_diag (s : State) (f : Fatal) : (raiseFatal s f).diag = some f.diag := rfl
@[simp] theorem raiseFatal_pinEvt (s : State) (f : Fatal) : (raiseFatal s f).pinEvt = s.pinEvt := rfl

/-! What `clearPorts` leaves in each field. -/

@[simp] theorem clearPorts_x (s : State) : (clearPorts s).x = s.x := rfl
@[simp] theorem clearPorts_z (s : State) : (clearPorts s).z = s.z := rfl
@[simp] theorem clearPorts_nf (s : State) : (clearPorts s).nf = s.nf := rfl
@[simp] theorem clearPorts_c (s : State) : (clearPorts s).c = s.c := rfl
@[simp] theorem clearPorts_pc (s : State) : (clearPorts s).pc = s.pc := rfl
@[simp] theorem clearPorts_slots (s : State) : (clearPorts s).slots = s.slots := rfl
@[simp] theorem clearPorts_running (s : State) : (clearPorts s).running = s.running := rfl
@[simp] theorem clearPorts_stopReason (s : State) : (clearPorts s).stopReason = s.stopReason := rfl
@[simp] theorem clearPorts_mem (s : State) : (clearPorts s).mem = s.mem := rfl
@[simp] theorem clearPorts_gpio (s : State) : (clearPorts s).gpio = s.gpio := rfl
@[simp] theorem clearPorts_imem (s : State) : (clearPorts s).imem = s.imem := rfl
@[simp] theorem clearPorts_rst (s : State) : (clearPorts s).rst = s.rst := rfl
@[simp] theorem clearPorts_ifPort (s : State) : (clearPorts s).ifPort = none := rfl
@[simp] theorem clearPorts_diag (s : State) : (clearPorts s).diag = none := rfl
@[simp] theorem clearPorts_pinEvt (s : State) : (clearPorts s).pinEvt = none := rfl

/-! What `advance` leaves in each field. -/

@[simp] theorem advance_x (s : State) : (advance s).x = s.x := rfl
@[simp] theorem advance_z (s : State) : (advance s).z = s.z := rfl
@[simp] theorem advance_nf (s : State) : (advance s).nf = s.nf := rfl
@[simp] theorem advance_c (s : State) : (advance s).c = s.c := rfl
@[simp] theorem advance_pc (s : State) : (advance s).pc = s.pc := rfl
@[simp] theorem advance_slots (s : State) : (advance s).slots = #v[none, s.slots[0], s.slots[1], s.slots[2]] := rfl
@[simp] theorem advance_running (s : State) : (advance s).running = s.running := rfl
@[simp] theorem advance_stopReason (s : State) : (advance s).stopReason = s.stopReason := rfl
@[simp] theorem advance_mem (s : State) : (advance s).mem = s.mem := rfl
@[simp] theorem advance_gpio (s : State) : (advance s).gpio = s.gpio := rfl
@[simp] theorem advance_imem (s : State) : (advance s).imem = s.imem := rfl
@[simp] theorem advance_rst (s : State) : (advance s).rst = s.rst := rfl
@[simp] theorem advance_ifPort (s : State) : (advance s).ifPort = s.ifPort := rfl
@[simp] theorem advance_diag (s : State) : (advance s).diag = s.diag := rfl
@[simp] theorem advance_pinEvt (s : State) : (advance s).pinEvt = s.pinEvt := rfl

/-! What reset leaves in each field (70_reset R170). -/

@[simp] theorem State.reset_x : State.reset.x = Vector.replicate 16 0 := rfl
@[simp] theorem State.reset_z : State.reset.z = false := rfl
@[simp] theorem State.reset_nf : State.reset.nf = false := rfl
@[simp] theorem State.reset_c : State.reset.c = false := rfl
@[simp] theorem State.reset_pc : State.reset.pc = 0 := rfl
@[simp] theorem State.reset_slots : State.reset.slots = Vector.replicate 4 none := rfl
@[simp] theorem State.reset_running : State.reset.running = true := rfl
@[simp] theorem State.reset_stopReason : State.reset.stopReason = .running := rfl
@[simp] theorem State.reset_mem : State.reset.mem = [] := rfl
@[simp] theorem State.reset_gpio : State.reset.gpio = Vector.replicate 16 0 := rfl
@[simp] theorem State.reset_imem : State.reset.imem = [] := rfl
@[simp] theorem State.reset_rst : State.reset.rst = false := rfl
@[simp] theorem State.reset_ifPort : State.reset.ifPort = none := rfl
@[simp] theorem State.reset_diag : State.reset.diag = none := rfl
@[simp] theorem State.reset_pinEvt : State.reset.pinEvt = none := rfl

/-! Registers read after a write. -/

@[simp] theorem State.readReg_writeReg_same (s : State) (r : RegIx) (v : Word) : (s.writeReg r v).readReg r = v := by
  simp [State.readReg]

theorem State.readReg_writeReg_other (s : State) (r q : RegIx) (v : Word) (h : q ≠ r) :
    (s.writeReg r v).readReg q = s.readReg q := by
  have hv : r.val ≠ q.val := fun e => h (Fin.ext e.symm)
  simp [State.readReg, hv]

end Sys2Proof.Machine
end

