-- ==== Sys2Proof/Laws/Flags.lean ====
section
/-! SUPPORT. The arithmetic in terms of bit vectors, and what a result leaves. -/

namespace Sys2Proof.Machine

theorem aluAdd_eq (a b : Word) : aluAdd a b = a + b := by
  simp [aluAdd, trunc32, BitVec.ofInt_add]

theorem aluMul_eq (a b : Word) : aluMul a b = a * b := by
  simp [aluMul, trunc32, BitVec.ofInt_mul]

theorem aluMac_eq (acc a b : Word) : aluMac acc a b = acc + a * b := by
  simp [aluMac, trunc32, BitVec.ofInt_add, BitVec.ofInt_mul]

theorem writeResult_readReg_same (s : State) (d : RegIx) (v : Word) : (writeResult s d v).readReg d = v := by
  simp [State.readReg]

theorem writeResult_readReg_other (s : State) (d q : RegIx) (v : Word) (h : q ≠ d) :
    (writeResult s d v).readReg q = s.readReg q :=
  State.readReg_writeReg_other s d q v h

end Sys2Proof.Machine
end

