-- ==== Sys2Proof/Laws/Ops.lean ====
section
/-! SUPPORT. What the operations over memory, pins and bus do, said once each. -/

namespace Sys2Proof.Machine

/-! The Memory Bank. -/

theorem Memory.wfFrom_mono {lo lo' : Nat} {m : Memory} (h : lo ≤ lo') (hm : Memory.wfFrom lo' m = true) :
    Memory.wfFrom lo m = true := by
  cases m with
  | nil => rfl
  | cons e m =>
    simp only [Memory.wfFrom, Bool.and_eq_true, decide_eq_true_eq] at hm ⊢
    exact ⟨⟨⟨h.trans hm.1.1.1, hm.1.1.2⟩, hm.1.2⟩, hm.2⟩

/-- An address below the first listed one reads as the reset value. -/
theorem Memory.read_below {lo a : Nat} {m : Memory} (hm : Memory.wfFrom lo m = true) (h : a < lo) :
    Memory.read m a = Config.memReset := by
  induction m generalizing lo with
  | nil => rfl
  | cons e m ih =>
    simp only [Memory.wfFrom, Bool.and_eq_true, decide_eq_true_eq] at hm
    have hne : a ≠ e.1 := by omega
    simp only [Memory.read, if_neg hne]
    exact ih hm.2 (by omega)

/-- A write keeps the canonical form. -/
theorem Memory.wfFrom_write {lo a : Nat} {m : Memory} (v : Word) (hm : Memory.wfFrom lo m = true) (hlo : lo ≤ a)
    (ha : a < Config.memWords) : Memory.wfFrom lo (m.write a v) = true := by
  induction m generalizing lo with
  | nil =>
    unfold Memory.write
    split
    · rfl
    · next hv => simp [Memory.wfFrom, hlo, ha, hv]
  | cons e m ih =>
    obtain ⟨b, w⟩ := e
    have hm' := hm
    simp only [Memory.wfFrom, Bool.and_eq_true, decide_eq_true_eq] at hm'
    obtain ⟨⟨⟨hb, hbw⟩, hw⟩, hrest⟩ := hm'
    unfold Memory.write
    split
    · next hab =>
      split
      · exact hm
      · next hv => simp [Memory.wfFrom, hlo, ha, hv, hbw, hw, hrest, Nat.succ_le_of_lt hab]
    · split
      · next hab =>
        subst hab
        split
        · exact Memory.wfFrom_mono (by omega) hrest
        · next hv => simp [Memory.wfFrom, hlo, ha, hv, hrest]
      · next h1 h2 =>
        simp only [Memory.wfFrom, Bool.and_eq_true, decide_eq_true_eq]
        exact ⟨⟨⟨hb, hbw⟩, hw⟩, ih hrest (by omega)⟩

theorem Memory.wf_write {m : Memory} {a : Nat} (v : Word) (hm : m.wf = true) (ha : a < Config.memWords) :
    (m.write a v).wf = true :=
  Memory.wfFrom_write v hm (Nat.zero_le a) ha

theorem Memory.wf_reset : State.reset.mem.wf = true := rfl

/-- A read after a write to the same address gives the value written, in a memory in canonical form. -/
theorem Memory.read_write_same {lo a : Nat} {m : Memory} (v : Word) (hm : Memory.wfFrom lo m = true) :
    (m.write a v).read a = v := by
  induction m generalizing lo with
  | nil =>
    unfold Memory.write
    split
    · next hv => simp [Memory.read, hv]
    · simp [Memory.read]
  | cons e m ih =>
    obtain ⟨b, w⟩ := e
    simp only [Memory.wfFrom, Bool.and_eq_true, decide_eq_true_eq] at hm
    unfold Memory.write
    split
    · next hab =>
      split
      · next hv => simp [Memory.read, Nat.ne_of_lt hab, Memory.read_below hm.2 (Nat.lt_succ_of_lt hab), hv]
      · simp [Memory.read]
    · split
      · next hab =>
        subst hab
        split
        · next hv => rw [Memory.read_below hm.2 (Nat.lt_succ_self a), hv]
        · simp [Memory.read]
      · next h1 h2 => simpa [Memory.read, h2] using ih hm.2

/-- A write leaves every other address alone, in any memory. -/
theorem Memory.read_write_other {a b : Nat} {m : Memory} (v : Word) (h : b ≠ a)
    : (m.write a v).read b = m.read b := by
  induction m with
  | nil =>
    unfold Memory.write
    split
    · rfl
    · simp [Memory.read, h]
  | cons e m ih =>
    obtain ⟨c, w⟩ := e
    unfold Memory.write
    split
    · split
      · rfl
      · simp [Memory.read, h]
    · split
      · next hac =>
        subst hac
        split
        · simp [Memory.read, h]
        · simp [Memory.read, h]
      · simp only [Memory.read, ih]

/-! The pins. -/

theorem pinOf_of_range {pin : Int} (h0 : 0 ≤ pin) (h : pin < 16) :
    pinOf pin = some ⟨pin.toNat, by simp only [Config.gpioPins]; omega⟩ := by
  have hp : 0 ≤ pin ∧ pin < (Config.gpioPins : Int) := ⟨h0, by simpa using h⟩
  simp only [pinOf, dif_pos hp]

theorem pinOf_of_not {pin : Int} (h : ¬(0 ≤ pin ∧ pin < 16)) : pinOf pin = none := by
  have hp : ¬(0 ≤ pin ∧ pin < (Config.gpioPins : Int)) := by simpa using h
  simp only [pinOf, dif_neg hp]

/-- `pinOf` answers exactly the pins in range. -/
theorem pinOf_eq_some {pin : Int} {p : PinIx} : pinOf pin = some p ↔ pin = (p.val : Int) := by
  constructor
  · intro h
    by_cases hp : 0 ≤ pin ∧ pin < 16
    · rw [pinOf_of_range hp.1 hp.2] at h
      have := congrArg Fin.val (Option.some.inj h)
      simp only at this
      omega
    · rw [pinOf_of_not hp] at h
      cases h
  · intro h
    have hp := p.isLt
    simp only [Config.gpioPins] at hp
    rw [pinOf_of_range (by omega) (by omega)]
    exact congrArg some (Fin.ext (by simp only; omega))

/-- Everything `GpioRead` can do (20_memory R59). -/
theorem gpioRead_cases (s : State) (pin : Int) :
    (∃ p : Fin 16, pin = (p.val : Int) ∧ gpioRead s pin = (s.gpio[p], s)) ∨
    (¬(0 ≤ pin ∧ pin < 16) ∧ gpioRead s pin = (0, s.report .gpioReadRange (trunc32 pin))) := by
  by_cases hp : 0 ≤ pin ∧ pin < 16
  · exact .inl ⟨⟨pin.toNat, by omega⟩, by simp only; omega, by simp only [gpioRead, pinOf_of_range hp.1 hp.2]⟩
  · exact .inr ⟨hp, by simp only [gpioRead, pinOf_of_not hp]⟩

/-- Everything `GpioWrite` can do (20_memory R58). -/
theorem gpioWrite_cases (s : State) (pin : Int) (v : Word) :
    (∃ p : Fin 16, pin = (p.val : Int) ∧ gpioWrite s pin v = (s.writePin p v).pinEvent p v) ∨
    (¬(0 ≤ pin ∧ pin < 16) ∧ gpioWrite s pin v = s.report .gpioWriteRange (trunc32 pin)) := by
  by_cases hp : 0 ≤ pin ∧ pin < 16
  · exact .inl ⟨⟨pin.toNat, by omega⟩, by simp only; omega, by simp only [gpioWrite, pinOf_of_range hp.1 hp.2]⟩
  · exact .inr ⟨hp, by simp only [gpioWrite, pinOf_of_not hp]⟩

/-! The bus. -/

/-- Everything `MemRead` can do (20_memory R52, R54). -/
theorem busRead_cases (s : State) (addr : BusAddr) :
    (addr.toNat < 1024 ∧ busRead s addr = (s.mem.read addr.toNat, s)) ∨
    (1024 ≤ addr.toNat ∧ addr.toNat < 0x8000 ∧ busRead s addr = (0, s.report .busReadUnmapped (addr.setWidth 32))) ∨
    (∃ p : Fin 16, addr.toNat = 0x8000 + p.val ∧ busRead s addr = (s.gpio[p], s)) ∨
    (0x8010 ≤ addr.toNat ∧
      busRead s addr = (0, s.report .gpioReadRange (trunc32 ((addr.toNat : Int) - 0x8000)))) := by
  by_cases h1 : addr.toNat < 1024
  · exact .inl ⟨h1, by simp only [busRead, Config.memWords, if_pos h1]⟩
  by_cases h2 : 0x8000 ≤ addr.toNat
  · have hb : busRead s addr = gpioRead s ((addr.toNat : Int) - 0x8000) := by
      simp only [busRead, Config.memWords, Config.gpioBase, if_neg h1, if_pos h2]
      rfl
    rcases gpioRead_cases s ((addr.toNat : Int) - 0x8000) with ⟨p, hp, hr⟩ | ⟨hp, hr⟩
    · exact .inr (.inr (.inl ⟨p, by omega, hb.trans hr⟩))
    · exact .inr (.inr (.inr ⟨by omega, hb.trans hr⟩))
  · exact .inr (.inl ⟨by omega, by omega, by
      simp only [busRead, Config.memWords, Config.gpioBase, if_neg h1, if_neg h2]⟩)

/-- Everything `MemWrite` can do (20_memory R53, R54). -/
theorem busWrite_cases (s : State) (addr : BusAddr) (v : Word) :
    (addr.toNat < 1024 ∧ busWrite s addr v = s.writeMem addr.toNat v) ∨
    (1024 ≤ addr.toNat ∧ addr.toNat < 0x8000 ∧ busWrite s addr v = s.report .busWriteUnmapped (addr.setWidth 32)) ∨
    (∃ p : Fin 16, addr.toNat = 0x8000 + p.val ∧ busWrite s addr v = (s.writePin p v).pinEvent p v) ∨
    (0x8010 ≤ addr.toNat ∧
      busWrite s addr v = s.report .gpioWriteRange (trunc32 ((addr.toNat : Int) - 0x8000))) := by
  by_cases h1 : addr.toNat < 1024
  · exact .inl ⟨h1, by simp only [busWrite, Config.memWords, if_pos h1]⟩
  by_cases h2 : 0x8000 ≤ addr.toNat
  · have hb : busWrite s addr v = gpioWrite s ((addr.toNat : Int) - 0x8000) v := by
      simp only [busWrite, Config.memWords, Config.gpioBase, if_neg h1, if_pos h2]
      rfl
    rcases gpioWrite_cases s ((addr.toNat : Int) - 0x8000) v with ⟨p, hp, hr⟩ | ⟨hp, hr⟩
    · exact .inr (.inr (.inl ⟨p, by omega, hb.trans hr⟩))
    · exact .inr (.inr (.inr ⟨by omega, hb.trans hr⟩))
  · exact .inr (.inl ⟨by omega, by omega, by
      simp only [busWrite, Config.memWords, Config.gpioBase, if_neg h1, if_neg h2]⟩)

/-- A bus read changes the diagnostic port at most. -/
theorem busRead_frame (s : State) (addr : BusAddr) : ∃ d, (busRead s addr).2 = { s with diag := d } := by
  rcases busRead_cases s addr with ⟨_, h⟩ | ⟨_, _, h⟩ | ⟨_, _, h⟩ | ⟨_, h⟩ <;> rw [h] <;> exact ⟨_, rfl⟩

/-- A bus write changes the memory, the pins and the event ports at most. -/
theorem busWrite_frame (s : State) (addr : BusAddr) (v : Word) :
    ∃ m g d e, busWrite s addr v = { s with mem := m, gpio := g, diag := d, pinEvt := e } := by
  rcases busWrite_cases s addr v with ⟨_, h⟩ | ⟨_, _, h⟩ | ⟨_, _, h⟩ | ⟨_, h⟩ <;> rw [h] <;> exact ⟨_, _, _, _, rfl⟩

/-- A bus write keeps the memory's canonical form. -/
theorem busWrite_mem_wf {s : State} (addr : BusAddr) (v : Word) (h : s.mem.wf = true) :
    (busWrite s addr v).mem.wf = true := by
  rcases busWrite_cases s addr v with ⟨ha, hw⟩ | ⟨_, _, hw⟩ | ⟨_, _, hw⟩ | ⟨_, hw⟩ <;> rw [hw]
  · exact Memory.wf_write v h ha
  · exact h
  · exact h
  · exact h

end Sys2Proof.Machine
end

