-- ==== Sys2Proof/Laws/Operands.lean ====
section
/-! SUPPORT. What the check of a register field can do (10_state R25). -/

namespace Sys2Proof.Machine

theorem regOf_of_lt {f : Field} (h : f.toNat < 16) : regOf f = some ⟨f.toNat, h⟩ := by
  simp only [regOf, Config.nregs, dif_pos h]

theorem regOf_of_le {f : Field} (h : 16 ≤ f.toNat) : regOf f = none := by
  simp only [regOf, Config.nregs, dif_neg (Nat.not_lt.mpr h)]

/-- A valid field: the instruction goes on with the register it names. -/
theorem withReg_of_lt {f : Field} (s : State) (k : RegIx → Host.Outcome State Fault Refusal) (h : f.toNat < 16) :
    withReg f s k = k ⟨f.toNat, h⟩ := by
  simp only [withReg, regOf_of_lt h]

/-- A bad field: the fatal stop, and nothing else. -/
theorem withReg_of_le {f : Field} (s : State) (k : RegIx → Host.Outcome State Fault Refusal) (h : 16 ≤ f.toNat) :
    withReg f s k = .next (raiseFatal s (.badRegister f)) := by
  simp only [withReg, regOf_of_le h]

/-- Everything the check can do. -/
theorem withReg_cases (f : Field) (s : State) (k : RegIx → Host.Outcome State Fault Refusal) :
    (∃ h : f.toNat < 16, withReg f s k = k ⟨f.toNat, h⟩) ∨
    (16 ≤ f.toNat ∧ withReg f s k = .next (raiseFatal s (.badRegister f))) := by
  by_cases h : f.toNat < 16
  · exact .inl ⟨h, withReg_of_lt s k h⟩
  · exact .inr ⟨Nat.not_lt.mp h, withReg_of_le s k (Nat.not_lt.mp h)⟩

end Sys2Proof.Machine
end

