-- ==== Sys2Proof/Laws/Exec.lean ====
section
/-! SUPPORT. Everything Execute can do to the state, whatever the instruction: the one inversion lemma of `exec`. -/

namespace Sys2Proof.Machine

/-- A result written to a register after a report at most, a bus or pin write, the stop of HALT, or a fatal stop. -/
def ExecShape (s : State) (o : Host.Outcome State Fault Refusal) : Prop :=
  (∃ d v dg, o = .next (writeResult { s with diag := dg } d v)) ∨
  (∃ m g dg e, o = .next { s with mem := m, gpio := g, diag := dg, pinEvt := e } ∧
    (s.mem.wf = true → m.wf = true)) ∨
  o = .next (s.stop .halted) ∨
  (∃ f, o = .next (raiseFatal s f))

theorem ExecShape.withReg {f : Field} {s : State} {k : RegIx → Host.Outcome State Fault Refusal}
    (h : ∀ r, ExecShape s (k r)) : ExecShape s (withReg f s k) := by
  rcases withReg_cases f s k with ⟨hf, e⟩ | ⟨_, e⟩ <;> rw [e]
  · exact h _
  · exact .inr (.inr (.inr ⟨_, rfl⟩))

theorem ExecShape.busWrite (s : State) (a : BusAddr) (v : Word) : ExecShape s (.next (busWrite s a v)) := by
  obtain ⟨m, g, d, e, h⟩ := busWrite_frame s a v
  refine .inr (.inl ⟨m, g, d, e, by rw [h], fun hw => ?_⟩)
  have := busWrite_mem_wf a v hw
  rwa [h] at this

theorem ExecShape.gpioWrite (s : State) (p : Int) (v : Word) : ExecShape s (.next (gpioWrite s p v)) := by
  rcases gpioWrite_cases s p v with ⟨_, _, h⟩ | ⟨_, h⟩ <;> rw [h] <;> exact .inr (.inl ⟨_, _, _, _, rfl, id⟩)

theorem ExecShape.result (s : State) (d : RegIx) (v : Word) : ExecShape s (.next (writeResult s d v)) :=
  .inl ⟨d, v, s.diag, rfl⟩

theorem exec_shape (i : Instr) (s : State) : ExecShape s (exec i s) := by
  cases i
  case loadImmediate op1 op2 => exact .withReg fun d => .result s d op2
  case loadRegister op1 op2 =>
    refine .withReg fun d => .withReg fun a => ?_
    obtain ⟨dg, h⟩ := busRead_frame s (busAddrOf (s.readReg a))
    exact .inl ⟨d, (busRead s (busAddrOf (s.readReg a))).1, dg, by simp only [h]⟩
  case store op1 op2 => exact .withReg fun a => .withReg fun v => .busWrite s _ _
  case add op1 op2 op3 => exact .withReg fun d => .withReg fun a => .withReg fun b => .result s d _
  case mul op1 op2 op3 => exact .withReg fun d => .withReg fun a => .withReg fun b => .result s d _
  case mac op1 op2 op3 => exact .withReg fun d => .withReg fun a => .withReg fun b => .result s d _
  case out op1 op2 => exact .withReg fun p => .withReg fun v => .gpioWrite s _ _
  case halt => exact .inr (.inr (.inl rfl))
  case nop => exact .inr (.inr (.inr ⟨_, rfl⟩))
  case invalid => exact .inr (.inr (.inr ⟨_, rfl⟩))
  case unassigned9 => exact .inr (.inr (.inr ⟨_, rfl⟩))
  case unassigned10to11 opcode => exact .inr (.inr (.inr ⟨_, rfl⟩))
  case unassigned12to15 opcode => exact .inr (.inr (.inr ⟨_, rfl⟩))

end Sys2Proof.Machine
end

