-- ==== Sys2Proof/Laws/PerInstr.lean ====
section
/-! SUPPORT. What is said of every instruction as syntax, one lemma per constructor: the encoder writes the fixed bits
of the instruction's row of spec/opcode_table.json. -/

namespace Sys2Proof.Laws.RowMatch

/-- The encoded word of a well-formed instruction matches the row of the opcode table that the instruction has. -/
def Statement (i : Instr) : Prop :=
  i.wellFormed = true → ∃ r, opcodeRows[i.row]? = some r ∧ encode i &&& r.2.2 = r.2.1

theorem loadImmediate (op1 : Field) (op2 : Word) : Statement (.loadImmediate op1 op2) := fun _ =>
  ⟨_, rfl, packDiw_and_low 1 true op1 op2 0 0x1F⟩

theorem loadRegister (op1 op2 : Field) : Statement (.loadRegister op1 op2) := fun _ =>
  ⟨_, rfl, packDiw_and_low 1 false op1 op2 0 0x1F⟩

theorem store (op1 op2 : Field) : Statement (.store op1 op2) := fun _ =>
  ⟨_, rfl, packDiw_and_low 2 false op1 op2 0 0x0F⟩

theorem add (op1 op2 op3 : Field) : Statement (.add op1 op2 op3) := fun _ =>
  ⟨_, rfl, packDiw_and_low 3 false op1 op2 op3 0x0F⟩

theorem mul (op1 op2 op3 : Field) : Statement (.mul op1 op2 op3) := fun _ =>
  ⟨_, rfl, packDiw_and_low 4 false op1 op2 op3 0x0F⟩

theorem mac (op1 op2 op3 : Field) : Statement (.mac op1 op2 op3) := fun _ =>
  ⟨_, rfl, packDiw_and_low 5 false op1 op2 op3 0x0F⟩

theorem out (op1 op2 : Field) : Statement (.out op1 op2) := fun _ =>
  ⟨_, rfl, packDiw_and_low 6 false op1 op2 0 0x0F⟩

theorem halt : Statement .halt := fun _ => ⟨_, rfl, packDiw_and_low 7 false 0 0 0 0x0F⟩

theorem nop : Statement .nop := fun _ => ⟨_, rfl, packDiw_and_low 0 false 0 0 0 0x0F⟩

theorem invalid : Statement .invalid := fun _ => ⟨_, rfl, packDiw_and_low 8 false 0 0 0 0x0F⟩

theorem unassigned9 : Statement .unassigned9 := fun _ => ⟨_, rfl, packDiw_and_low 9 false 0 0 0 0x0F⟩

theorem unassigned10to11 (opcode : Opcode) : Statement (.unassigned10to11 opcode) := by
  intro h
  refine ⟨_, rfl, (packDiw_and_low opcode false 0 0 0 0x0E).trans ?_⟩
  revert opcode
  decide

theorem unassigned12to15 (opcode : Opcode) : Statement (.unassigned12to15 opcode) := by
  intro h
  refine ⟨_, rfl, (packDiw_and_low opcode false 0 0 0 0x0C).trans ?_⟩
  revert opcode
  decide

end Sys2Proof.Laws.RowMatch
end

