-- ==== Sys2Proof/Laws/Pipeline.lean ====
section
/-! SUPPORT. What Fetch, Advance, the drain test and the kinds of edge do, said once each. -/

namespace Sys2Proof.Machine

/-! The kind of edge. -/

theorem edgeOf_reset {s : State} (h : s.rst = true) : edgeOf s = .reset := by simp [edgeOf, h]

theorem edgeOf_idle {s : State} (h : s.rst = false) (hr : s.running = false) : edgeOf s = .idle := by
  simp [edgeOf, h, hr]

theorem edgeOf_tooLong {s : State} (h : s.rst = false) (hr : s.running = true) (hN : 1024 < s.imem.length) :
    edgeOf s = .tooLong := by
  simp [edgeOf, h, hr, State.progLen, hN]

theorem edgeOf_cycle {s : State} (h : s.rst = false) (hr : s.running = true) (hN : s.imem.length ≤ 1024) :
    edgeOf s = .cycle := by
  simp [edgeOf, h, hr, State.progLen, Config.progCap, Nat.not_lt.mpr hN]

/-! Fetch. -/

theorem fetch_loads {s : State} (h0 : s.slots[0] = none) (hN : s.pc.toNat < s.imem.length) :
    fetch s = { s with
      slots := s.slots.set 0 (some s.imem[s.pc.toNat])
      pc := s.pc + 1
      ifPort := some s.pc } := by
  simp only [fetch, dif_pos (And.intro h0 hN)]

theorem fetch_holds {s : State} (h : ¬(s.slots[0] = none ∧ s.pc.toNat < s.imem.length)) : fetch s = s := by
  simp only [fetch, dif_neg h]

/-- Fetch writes `pc`, slot 0 and the fetch port at most (40_pipeline R92). -/
theorem fetch_frame (s : State) :
    ∃ w p a, fetch s = { s with slots := s.slots.set 0 w, pc := p, ifPort := a } := by
  by_cases h : s.slots[0] = none ∧ s.pc.toNat < s.imem.length
  · exact ⟨_, _, _, fetch_loads h.1 h.2⟩
  · refine ⟨s.slots[0], s.pc, s.ifPort, ?_⟩
    rw [fetch_holds h]
    simp

/-- Execute takes the word that stood in slot 2 before Fetch. -/
theorem executing_beginCycle (s : State) : executing (beginCycle s) = s.slots[2].map decode := by
  obtain ⟨w, p, a, h⟩ := fetch_frame (clearPorts s)
  simp [executing, beginCycle, h]

/-! Advance and the drain test. -/

theorem drainTest_of_drained {s : State} (hr : s.running = true) (hd : drained s = true) :
    drainTest s = s.stop .drained := by
  simp [drainTest, hr, hd]

theorem drainTest_of_stopped {s : State} (hr : s.running = false) : drainTest s = s := by simp [drainTest, hr]

theorem drainTest_of_not_drained {s : State} (hd : drained s = false) : drainTest s = s := by simp [drainTest, hd]

/-- The drain test writes `running` and `stopReason` at most (40_pipeline R97). -/
theorem drainTest_cases (s : State) :
    (s.running = true ∧ drained s = true ∧ drainTest s = s.stop .drained) ∨
    (¬(s.running = true ∧ drained s = true) ∧ drainTest s = s) := by
  by_cases h : s.running = true ∧ drained s = true
  · exact .inl ⟨h.1, h.2, drainTest_of_drained h.1 h.2⟩
  · exact .inr ⟨h, by simpa [drainTest] using fun h1 h2 => absurd (And.intro h1 h2) h⟩

end Sys2Proof.Machine
end

