-- ==== Sys2Proof/Laws/Run.lean ====
section
/-! SUPPORT. Runs of the machine, one step at a time. -/

namespace Sys2Proof.Machine

@[simp] theorem runFor_zero (s : State) : runFor 0 s = .next s := rfl

/-- A step with a next state, then the rest of the run. -/
theorem runFor_succ {s t : State} (k : Nat) (h : step s = .next t) : runFor (k + 1) s = runFor k t := by
  simp only [runFor, h]

/-- A run of `k + 1` steps begins with a step that has a next state. -/
theorem runFor_succ_inv {s t : State} {k : Nat} (h : runFor (k + 1) s = .next t) :
    ∃ u, step s = .next u ∧ runFor k u = .next t := by
  simp only [runFor] at h
  split at h
  · next u hu => exact ⟨u, hu, h⟩
  · cases h
  · cases h

/-- A run in two parts. -/
theorem runFor_add {s t : State} (j k : Nat) (h : runFor j s = .next t) : runFor (j + k) s = runFor k t := by
  induction j generalizing s with
  | zero =>
    cases h
    rw [Nat.zero_add]
  | succ j ih =>
    obtain ⟨u, hu, hr⟩ := runFor_succ_inv h
    rw [Nat.succ_add, runFor_succ (j + k) hu]
    exact ih hr

/-- The host's run of any core, when its first step has a next state. -/
theorem core_run_succ (M : Host.Core) (k : Nat) {s t : M.State} (h : M.step s = .next t) :
    M.run (k + 1) s = M.run k t := by
  simp only [Host.Core.run, h]

/-- The host's run of any core, when its first step is refused. -/
theorem core_run_refused (M : Host.Core) (k : Nat) {s : M.State} {r : M.Refusal} (h : M.step s = .refused r) :
    M.run (k + 1) s = .refused r := by
  simp only [Host.Core.run, h]

/-- The host's run of the core is the same run. -/
theorem core_run_eq (k : Nat) (s : State) : Sys2Proof.core.run k s = runFor k s := by
  induction k generalizing s with
  | zero => rfl
  | succ k ih =>
    cases hs : step s with
    | next t => exact (core_run_succ Sys2Proof.core k hs).trans ((ih t).trans (runFor_succ k hs).symm)
    | fault r => exact nomatch r
    | refused r =>
      refine (core_run_refused Sys2Proof.core k hs).trans ?_
      simp only [runFor, hs]
      rfl

/-- The state `State.withFetchWord` builds from reset is the one a launch of the one-word program reaches in two cycles,
so that the word executes in the third, as 40_pipeline R99 has it. -/
theorem launch_two_cycles (w : Diw) : runFor 2 (launch [w]) = .next (placeForExecute State.reset w) := rfl

end Sys2Proof.Machine
end

