-- ==== Sys2Proof/Tests/Slice0.lean ====
section
/-! SUPPORT. Tests, whose expected results are the spec's own examples and vectors (30_encoding R85, 95_test_vectors)
or hand calculation from its rules, and a witness for the hypotheses of every statement. -/

namespace Sys2Proof.Tests
open Sys2Proof.Machine

/-- The next state of an outcome, if it has one. -/
def nextOf : Host.Outcome State Fault Refusal → Option State
  | .next s => some s
  | .fault _ => none
  | .refused _ => none

/-- Reset, with these registers written. -/
def regs (l : List (RegIx × Word)) : State := l.foldl (fun s p => s.writeReg p.1 p.2) State.reset

/-- The word, decoded and executed once on a state. -/
def run1 (w : Diw) (s : State) : Option State := nextOf (exec (decode w) s)

/-- Reset, with these slots, this program and this `pc`. -/
def engine (slots : Vector (Option Diw) Config.depth) (prog : List Diw) (pc : Pc) : State :=
  { State.reset with slots := slots, imem := prog, pc := pc }

/-! ## Parameters and well-formedness -/

/-- 00_scope R7: the values of the parameter table. -/
theorem test_parameter_values : Config.xlen = 32 ∧ Config.nregs = 16 ∧ Config.addrBits = 16 ∧ Config.memWords = 1024 ∧
    Config.gpioPins = 16 ∧ Config.gpioBase = 0x8000 ∧ Config.depth = 4 ∧ Config.execSlot.val = 2 ∧
    Config.progCap = 1024 ∧ Config.pcBits = 11 ∧ Config.iwBits = 128 := by decide

/-- 00_scope R7: what the parameters satisfy, and that `pc` holds every value in 0..PROG_CAP. -/
theorem test_parameter_constraints : Config.memWords ≤ Config.gpioBase ∧ Config.gpioBase ≤ 2 ^ Config.addrBits ∧
    Config.gpioPins ≤ 2 ^ Config.addrBits - Config.gpioBase ∧ Config.progCap < 2 ^ Config.pcBits := by decide

/-- Opcode 9 is no opcode of the row 10-11. -/
theorem test_ill_formed_10_11 : (Instr.unassigned10to11 9).wellFormed = false := by decide

/-- Opcode 11 is no opcode of the row 12-15. -/
theorem test_ill_formed_12_15 : (Instr.unassigned12to15 11).wellFormed = false := by decide

/-- 30_encoding R79: a register field of 16 is illegal, in each place. -/
theorem test_bad_register_fields : (Instr.add 16 0 0).regsValid = false ∧ (Instr.add 0 16 0).regsValid = false ∧
    (Instr.add 0 0 16).regsValid = false ∧ (Instr.add 15 15 15).regsValid = true := by decide

/-! ## Decoding, each word written out from 30_encoding R70 and R71 -/

/-- R85: `LOAD R0,#5`. -/
theorem test_decode_loadImmediate :
    decode 0x00000000_00000005_00000000_00000011 = .loadImmediate 0 5 := by decide
/-- T3.1: `LOAD R2,R0`. -/
theorem test_decode_loadRegister :
    decode 0x00000000_00000000_00000002_00000001 = .loadRegister 2 0 := by decide
/-- T4.6: `STORE R0,R1` with `imm` = 1. -/
theorem test_decode_store : decode 0x00000000_00000001_00000000_00000012 = .store 0 1 := by decide
/-- R85: `ADD R2,R0,R1`, here with every reserved bit set (R75). -/
theorem test_decode_add : decode 0x00000001_00000000_00000002_FFFFFFF3 = .add 2 0 1 := by decide
/-- P4: `MUL R3,R2,R2`. -/
theorem test_decode_mul : decode 0x00000002_00000002_00000003_00000004 = .mul 3 2 2 := by decide
/-- R85: `MAC R2,R0,R1`. -/
theorem test_decode_mac : decode 0x00000001_00000000_00000002_00000005 = .mac 2 0 1 := by decide
/-- R85: `OUT R2,R1`. -/
theorem test_decode_out : decode 0x00000000_00000001_00000002_00000006 = .out 2 1 := by decide
/-- T9.8: HALT with `op1` = 0xFFFFFFFF. -/
theorem test_decode_halt : decode 0x00000000_00000000_FFFFFFFF_00000007 = .halt := by decide
/-- P5: NOP. -/
theorem test_decode_nop : decode 0x00000000_00000000_00000000_00000000 = .nop := by decide
/-- T9.5: opcode 8. -/
theorem test_decode_invalid : decode 0x00000000_00000000_00000000_00000008 = .invalid := by decide
/-- R71: opcode 9. -/
theorem test_decode_unassigned9 : decode 0x00000000_00000000_00000000_00000019 = .unassigned9 := by decide
/-- R71: opcode 11. -/
theorem test_decode_unassigned10to11 :
    decode 0x00000000_00000000_00000000_0000000B = .unassigned10to11 11 := by decide
/-- T9.6: opcode 15 with `op1` = 99. -/
theorem test_decode_unassigned12to15 :
    decode 0x00000000_00000000_00000063_0000000F = .unassigned12to15 15 := by decide
/-- R85: the encoder writes the word of `MAC R2,R0,R1`. -/
theorem test_encode_mac : encode (.mac 2 0 1) = 0x00000001_00000000_00000002_00000005 := by decide
/-- The host's numbering of a table word, whole and cut to its first byte. -/
theorem test_decodeTableWord : decodeTableWord 128 0x00000001_00000000_00000002_00000003 = some (.add 2 0 1) ∧
    decodeTableWord 8 0xF07 = some .halt ∧ decodeTableWord 136 7 = none := by decide

/-! ## One instruction each -/

/-- T2.3: `LOAD R1,#-1` sets Nf. -/
theorem test_loadImmediate_negative : (run1 0x00000000_FFFFFFFF_00000001_00000011 State.reset).map
    (fun t => (t.x[1], t.z, t.nf, t.c)) = some (0xFFFFFFFF, false, true, false) := by decide
/-- T2.6: `op1` = 16 is the fatal stop. -/
theorem test_loadImmediate_badRegister : (run1 0x00000000_00000005_00000010_00000011 State.reset).map
    (fun t => (t.running, t.stopReason, t.diag)) = some (false, .faultBadRegister, some ⟨.badRegister, 16⟩) := by
  decide
/-- T3.6: `LOAD R3,R3` reads the address before it writes. -/
theorem test_loadRegister_same_register : (run1 0x00000000_00000003_00000003_00000001
    ((regs [(3, 4)]).writeMem 4 9)).map (fun t => t.x[3]) = some 9 := by decide
/-- T3.3: the gap reads 0, sets Z and is reported. -/
theorem test_loadRegister_gap : (run1 0x00000000_00000000_00000002_00000001 (regs [(0, 0x2000), (2, 7)])).map
    (fun t => (t.x[2], t.z, t.diag)) = some (0, true, some ⟨.busReadUnmapped, 0x2000⟩) := by decide
/-- T4.3: a STORE to 0x800A sets pin 10 and emits the event. -/
theorem test_store_pin : (run1 0x00000000_00000001_00000000_00000002 (regs [(0, 0x800A), (1, -3)])).map
    (fun t => (t.gpio[10], t.pinEvt, t.mem)) = some (-3, some ⟨10, -3⟩, []) := by decide
/-- T1.14, P4: address 0x10005 is 0x0005. -/
theorem test_store_truncates_address : (run1 0x00000000_00000005_00000004_00000002
    (regs [(4, 0x10005), (5, 77)])).map (fun t => t.mem) = some [(5, 77)] := by decide
/-- T5.3: overflow wraps, C stays false. -/
theorem test_add_wraps : (run1 0x00000001_00000000_00000002_00000003 (regs [(0, 0x7FFFFFFF), (1, 1)])).map
    (fun t => (t.x[2], t.z, t.nf, t.c)) = some (0x80000000, false, true, false) := by decide
/-- T5.10: ADD with `imm` = 1 still reads `x[5]`. -/
theorem test_add_ignores_imm : (run1 0x00000001_00000005_00000002_00000013 (regs [(5, 40), (1, 2)])).map
    (fun t => t.x[2]) = some 42 := by decide
/-- T6.7: 0x80000000 * -1. -/
theorem test_mul_most_negative : (run1 0x00000001_00000000_00000002_00000004 (regs [(0, 0x80000000), (1, -1)])).map
    (fun t => (t.x[2], t.nf)) = some (0x80000000, true) := by decide
/-- T6.8: the high half of the product is kept nowhere. -/
theorem test_mul_low_half : (run1 0x00000001_00000000_00000002_00000004 (regs [(0, 0x10001), (1, 0x10001)])).map
    (fun t => t.x[2]) = some 0x00020001 := by decide
/-- T7.8: `MAC R2,R0,R2` uses the old accumulator as a factor. -/
theorem test_mac_same_register : (run1 0x00000002_00000000_00000002_00000005 (regs [(2, 2), (0, 5)])).map
    (fun t => t.x[2]) = some 12 := by decide
/-- T7.2: a result of 0 sets Z. -/
theorem test_mac_zero : (run1 0x00000001_00000000_00000002_00000005 (regs [(2, 6), (0, -2), (1, 3)])).map
    (fun t => (t.x[2], t.z, t.nf)) = some (0, true, false) := by decide
/-- T8.5: OUT does not use the bus map. -/
theorem test_out_is_no_bus_access : (run1 0x00000000_00000001_00000002_00000006 (regs [(2, 0x8003), (1, 3)])).map
    (fun t => (t.gpio[3], t.diag, t.pinEvt)) = some (0, some ⟨.gpioWriteRange, 0x8003⟩, none) := by decide
/-- T8.6: `OUT R5,R5`. -/
theorem test_out_same_register : (run1 0x00000000_00000005_00000005_00000006 (regs [(5, 5)])).map
    (fun t => (t.gpio[5], t.pinEvt)) = some (5, some ⟨5, 5⟩) := by decide
/-- T9.1: HALT alone: slot 3 holds it, `pc` = 1. -/
theorem test_halt_step : (nextOf (step (State.reset.withFetchWord 128 7))).map
    (fun t => (t.running, t.stopReason, t.pc, t.slots[3], t.diag)) = some (false, .halted, 1, some 7, none) := by decide
/-- T9.4: a NOP stops the run and is reported with info 0. -/
theorem test_nop_step : (nextOf (step (State.reset.withFetchWord 128 0))).map
    (fun t => (t.running, t.stopReason, t.diag)) =
    some (false, .faultUnknownOpcode, some ⟨.unknownOpcode, 0⟩) := by decide
/-- T9.5: opcode 8 is reported with info 8. -/
theorem test_invalid_step : (nextOf (step (State.reset.withFetchWord 128 8))).map
    (fun t => (t.stopReason, t.diag)) = some (.faultUnknownOpcode, some ⟨.unknownOpcode, 8⟩) := by decide
/-- R133: opcode 9 is reported with info 9. -/
theorem test_unassigned9 : (run1 9 State.reset).map (fun t => (t.stopReason, t.diag)) =
    some (.faultUnknownOpcode, some ⟨.unknownOpcode, 9⟩) := by decide
/-- R133: opcode 10 is reported with info 10. -/
theorem test_unassigned10 : (run1 10 State.reset).map (fun t => (t.stopReason, t.diag)) =
    some (.faultUnknownOpcode, some ⟨.unknownOpcode, 10⟩) := by decide
/-- T9.6: opcode 15 with `op1` = 99: the operand is not checked. -/
theorem test_unassigned15 : (run1 0x00000000_00000000_00000063_0000000F State.reset).map
    (fun t => (t.stopReason, t.diag)) = some (.faultUnknownOpcode, some ⟨.unknownOpcode, 15⟩) := by decide

/-! ## The engine -/

/-- T10.1: the empty program drains in its first cycle. -/
theorem test_empty_program : (nextOf (step State.reset)).map (fun t => (t.running, t.stopReason, t.pc)) =
    some (false, .drained, 0) := by decide
/-- P1, cycle 3: fetch of 2, execution of 0, shift. -/
theorem test_cycle_3_of_P1 : (nextOf (step (engine #v[none, some 0x00000000_00000003_00000001_00000011,
      some 0x00000000_00000005_00000000_00000011, none]
      [0x00000000_00000005_00000000_00000011, 0x00000000_00000003_00000001_00000011,
        0x00000001_00000000_00000002_00000003] 2))).map
    (fun t => (t.x[0], t.pc, t.ifPort, t.slots)) = some (5, 3, some 2,
      #v[none, some 0x00000001_00000000_00000002_00000003, some 0x00000000_00000003_00000001_00000011,
        some 0x00000000_00000005_00000000_00000011]) := by decide
/-- T1.1, T1.2, T1.6, T1.8, T1.9: the bus read at the edges of its regions. -/
theorem test_bus_edges :
    (busRead (State.reset.writeMem 1023 (-5)) 0x03FF).1 = -5 ∧
    (busRead State.reset 0x0400).2.diag = some ⟨.busReadUnmapped, 0x400⟩ ∧
    (busRead State.reset 0x7FFF).2.diag = some ⟨.busReadUnmapped, 0x7FFF⟩ ∧
    (busRead (State.reset.writePin 15 (-1)) 0x800F).1 = -1 ∧
    (busRead State.reset 0x8010).2.diag = some ⟨.gpioReadRange, 0x10⟩ ∧
    (busRead State.reset 0x9000).2.diag = some ⟨.gpioReadRange, 0x1000⟩ ∧
    (busRead State.reset 0xFFFF).2.diag = some ⟨.gpioReadRange, 0x7FFF⟩ := by decide
/-- A word of 0 written to the Memory Bank leaves no entry, and the entries stand in order. -/
theorem test_memory_canonical : ((State.reset.writeMem 7 1).writeMem 3 2).mem = [(3, 2), (7, 1)] ∧
    (((State.reset.writeMem 7 1).writeMem 3 2).writeMem 7 0).mem = [(3, 2)] := by decide
/-- 10_state R27: status = {C, Nf, Z}. -/
theorem test_status_port : (State.reset.setFlags true false false).statusPort = 1 ∧
    (State.reset.setFlags false true false).statusPort = 2 := by decide

/-! ## Witnesses: states and operands that meet the hypotheses of the statements, at the edges of their clauses -/

/-- `LOAD R0,#5`, `ADD R2,R0,R1`, `STORE R0,R1`, `HALT`, and an ADD whose `op3` is 16. -/
abbrev wLoad : Diw := 0x00000000_00000005_00000000_00000011
/-- `ADD R2,R0,R1`. -/
abbrev wAdd : Diw := 0x00000001_00000000_00000002_00000003
/-- `STORE R0,R1`. -/
abbrev wStore : Diw := 0x00000000_00000001_00000000_00000002
/-- `HALT`. -/
abbrev wHalt : Diw := 7
/-- ADD with `op3` = 16 (T5.9). -/
abbrev wBad : Diw := 0x00000010_00000000_00000002_00000003
/-- A word standing in the Execute slot of a one-word program. -/
abbrev placed (w : Diw) : State := placeForExecute State.reset w

theorem witness_DecodeOfEncode : (Instr.unassigned10to11 11).wellFormed = true ∧
    (Instr.unassigned12to15 12).wellFormed = true ∧ (Instr.mac 0xFFFFFFFF 16 0).wellFormed = true := by decide
theorem witness_DecodeFollowsOpcodeTable : opcodeRows[0]? = some ("LOAD__immediate", 0x11, 0x1F) ∧
    opcodeRows[12]? = some ("UNASSIGNED_12-15__fatal_in_Execute", 0x0C, 0x0C) ∧
    (0x0F : Diw) &&& 0x0C = 0x0C ∧ (decode 0x0F).row = 12 := by decide
theorem witness_ClassFromLowFiveBits :
    (wLoad : Diw).extractLsb' 0 5 = (0xFFFFFFF1 : Diw).extractLsb' 0 5 ∧ wLoad ≠ 0xFFFFFFF1 := by decide
/-- A STORE with `imm`, `rsvd` and `op3` set, beside one without; and a LOAD, an ADD and a HALT beside theirs. -/
theorem witness_UnusedBitsAreIgnored :
    let w : Diw := 0xDEADBEEF_00000001_00000000_FFFFFFF2
    w.extractLsb' 0 4 = wStore.extractLsb' 0 4 ∧ w.extractLsb' 32 32 = wStore.extractLsb' 32 32 ∧
    w.extractLsb' 64 32 = wStore.extractLsb' 64 32 ∧ ¬(3 ≤ (w.extractLsb' 0 4).toNat) ∧ w ≠ wStore ∧
    (0xDEADBEEF_00000005_00000000_00000031 : Diw).getLsbD 4 = wLoad.getLsbD 4 ∧
    (0x00000001_00000000_00000002_00000013 : Diw).extractLsb' 96 32 = wAdd.extractLsb' 96 32 ∧
    (0x00000063_00000063_00000063_00000017 : Diw).extractLsb' 0 4 = wHalt.extractLsb' 0 4 := by decide
theorem witness_StepRunsTheExecuteSlot : Cycling (placed wAdd) ∧ (placed wAdd).slots[2] = some wAdd ∧
    Cycling State.reset ∧ State.reset.slots[2] = none := by decide
theorem witness_StoppedEngineHoldsItsState :
    (State.reset.stop .halted).rst = false ∧ (State.reset.stop .halted).running = false := by decide
theorem witness_ResetEdgeGivesResetState :
    ({ (regs [(3, 4)]).stop .drained with rst := true, pc := 5, imem := [wAdd] } : State).rst = true := by decide
/-- `pc` = N - 1 with slot 0 empty, `pc` = N, and slot 0 full. -/
theorem witness_EveryCycleFetchesAndAdvances :
    Cycling (engine #v[none, none, none, none] [wAdd, wHalt] 1) ∧
    (engine #v[none, none, none, none] [wAdd, wHalt] 1).pc.toNat < [wAdd, wHalt].length ∧
    Cycling (engine #v[none, none, none, none] [wAdd, wHalt] 2) ∧
    [wAdd, wHalt].length ≤ (engine #v[none, none, none, none] [wAdd, wHalt] 2).pc.toNat ∧
    Cycling (engine #v[some wAdd, none, none, none] [wAdd] 0) ∧
    (engine #v[some wAdd, none, none, none] [wAdd] 0).slots[0] ≠ none := by decide
theorem witness_DrainTestStopsAnEmptyEngine :
    Cycling (engine #v[none, none, none, some wAdd] [wAdd] 1) ∧
    (engine #v[none, none, none, some wAdd] [wAdd] 1).slots[2] = none ∧
    Cycling (engine #v[none, none, none, none] [wAdd] 0) ∧
    Cycling (engine #v[none, some wAdd, none, none] [wAdd] 1) := by decide
/-- Each way of stopping, and a reset, a stopped and a running edge. -/
theorem witness_RunStopsInExactlyThreeWays :
    (nextOf (step State.reset)).map (fun t => t.running) = some false ∧
    (nextOf (step (placed wHalt))).map (fun t => t.running) = some false ∧
    (nextOf (step (placed 0))).map (fun t => t.running) = some false ∧
    (nextOf (step (placed wBad))).map (fun t => t.running) = some false ∧
    (nextOf (step (placed wAdd))).map (fun t => t.running) = some true ∧
    (nextOf (step { State.reset with rst := true })).map (fun t => t.running) = some true ∧
    (nextOf (step (State.reset.stop .halted))).map (fun t => t.running) = some false := by decide
theorem witness_NoStepChangesTheProgram : ∃ t, step (placed wStore) = .next t := ⟨_, rfl⟩
/-- A program of 1025 instructions, one too many, and one of 1024. -/
theorem witness_StepIsRefusedOnlyForOverlongProgram :
    ((launch (List.replicate 1025 wAdd)).rst = false ∧ (launch (List.replicate 1025 wAdd)).running = true ∧
      1024 < (launch (List.replicate 1025 wAdd)).imem.length) ∧
    ¬1024 < (launch (List.replicate 1024 wAdd)).imem.length := by
  have hlen : ∀ n, (launch (List.replicate n wAdd)).imem.length = n := fun n => List.length_replicate
  rw [hlen, hlen]
  exact ⟨⟨rfl, rfl, by decide⟩, by decide⟩
/-- Destination 15 and destination 16. -/
theorem witness_LoadImmediateResult :
    (0x00000000_80000000_0000000F_00000011 : Diw).extractLsb' 0 4 = 1#4 ∧
    (0x00000000_80000000_0000000F_00000011 : Diw).getLsbD 4 = true ∧
    (0x00000000_80000000_0000000F_00000011 : Diw).extractLsb' 32 32 = 15#32 ∧ (15#32).toNat < 16 ∧
    (0x00000000_00000005_00000010_00000011 : Diw).extractLsb' 32 32 = 16#32 ∧ 16 ≤ (16#32).toNat := by decide
/-- The word, a bad second field, and an address at each edge of each region. -/
theorem witness_LoadRegisterResult :
    (0x00000000_00000000_00000002_00000001 : Diw).extractLsb' 0 4 = 1#4 ∧
    (0x00000000_00000000_00000002_00000001 : Diw).getLsbD 4 = false ∧ firstBad [2, 20] = some 20 ∧
    ((regs [(0, 0x103FF)]).x[0].extractLsb' 0 16).toNat = 1023 ∧
    ((regs [(0, 0x0400)]).x[0].extractLsb' 0 16).toNat = 1024 ∧
    ((regs [(0, 0x7FFF)]).x[0].extractLsb' 0 16).toNat = 0x7FFF ∧
    ((regs [(0, 0x8000)]).x[0].extractLsb' 0 16).toNat = 0x8000 + (0 : Fin 16).val ∧
    ((regs [(0, 0x800F)]).x[0].extractLsb' 0 16).toNat = 0x8000 + (15 : Fin 16).val ∧
    ((regs [(0, 0x8010)]).x[0].extractLsb' 0 16).toNat = 0x8010 ∧
    ((regs [(0, -1)]).x[0].extractLsb' 0 16).toNat = 0xFFFF := by decide
theorem witness_StoreResult :
    wStore.extractLsb' 0 4 = 2#4 ∧ wStore.extractLsb' 32 32 = 0#32 ∧ wStore.extractLsb' 64 32 = 1#32 ∧
    firstBad [0xFFFFFFFF, 1] = some 0xFFFFFFFF ∧ (regs [(0, 1023)]).mem.wf = true ∧
    ((regs [(0, 1023)]).x[0].extractLsb' 0 16).toNat = 1023 ∧
    ((regs [(0, 0xFFFF0400)]).x[0].extractLsb' 0 16).toNat = 1024 ∧
    ((regs [(0, 0x7FFF)]).x[0].extractLsb' 0 16).toNat = 0x7FFF ∧
    ((regs [(0, 0x8000)]).x[0].extractLsb' 0 16).toNat = 0x8000 + (0 : Fin 16).val ∧
    ((regs [(0, 0x800F)]).x[0].extractLsb' 0 16).toNat = 0x8000 + (15 : Fin 16).val ∧
    ((regs [(0, 0x8010)]).x[0].extractLsb' 0 16).toNat = 0x8010 := by decide
/-- ADD, MUL and MAC words, and a bad field in each place, the first named first (T9.9). -/
theorem witness_ArithmeticResults :
    wAdd.extractLsb' 0 4 = 3#4 ∧ (0x00000001_00000000_00000002_00000004 : Diw).extractLsb' 0 4 = 4#4 ∧
    (0x00000001_00000000_00000002_00000005 : Diw).extractLsb' 0 4 = 5#4 ∧ wAdd.extractLsb' 32 32 = 2#32 ∧
    wAdd.extractLsb' 64 32 = 0#32 ∧ wAdd.extractLsb' 96 32 = 1#32 ∧ (2#32).toNat < 16 ∧
    firstBad [16, 17, 0] = some 16 ∧ firstBad [0, 17, 16] = some 17 ∧ firstBad [15, 15, 16] = some 16 ∧
    firstBad [15, 15, 15] = none := by decide
/-- Pins 0 and 15, and the indices next to them. -/
theorem witness_OutResult :
    (0x00000000_00000001_00000002_00000006 : Diw).extractLsb' 0 4 = 6#4 ∧ firstBad [2, 16] = some 16 ∧
    (regs [(2, 0)]).x[2].toInt = ((0 : Fin 16).val : Int) ∧ (regs [(2, 15)]).x[2].toInt = ((15 : Fin 16).val : Int) ∧
    (regs [(2, -1)]).x[2].toInt < 0 ∧ 16 ≤ (regs [(2, 16)]).x[2].toInt := by decide
theorem witness_HaltResult : wHalt.extractLsb' 0 4 = 7#4 ∧ Cycling (placed wHalt) ∧
    (placed wHalt).slots[2] = some wHalt ∧ AfterCycles (0 + 2) (placed wHalt) ∧
    (placed wHalt).imem[0]? = some wHalt := by decide
theorem witness_NopResult : (0 : Diw).extractLsb' 0 4 = 0#4 ∧ Cycling (placed 0) ∧
    (placed 0).slots[2] = some 0 := by decide
theorem witness_UnrecognizedOpcodeResult :
    (8 : Diw).extractLsb' 0 4 = 8#4 ∧ (9 : Diw).extractLsb' 0 4 = 9#4 ∧ (10 : Diw).extractLsb' 0 4 = 10#4 ∧
    (11 : Diw).extractLsb' 0 4 = 11#4 ∧ (12 : Diw).extractLsb' 0 4 = 12#4 ∧ (15 : Diw).extractLsb' 0 4 = 15#4 ∧
    8#4 ≤ 8#4 ∧ 12#4 ≤ 15#4 ∧ Cycling (placed 15) ∧ (placed 15).slots[2] = some 15 := by decide
theorem witness_BadRegisterStopsBeforeAnyEffect : firstBad (Instr.store 3 16).regFields = some 16 ∧
    firstBad (Instr.store 3 15).regFields = none ∧
    (∃ t, exec (.store 3 15) State.reset = .next t) ∧
    (run1 wBad State.reset).map (fun t => (t.stopReason, t.diag)) =
      some (.faultBadRegister, some ⟨.badRegister, 16⟩) :=
  ⟨by decide, by decide, ⟨_, rfl⟩, by decide⟩
/-- Instructions of both kinds, and a cycle with opcode 15 in slot 2, whose edge reports it. -/
theorem witness_UnknownOpcodeStops : Instr.nop.opcodeKnown = false ∧ (Instr.unassigned12to15 15).opcodeKnown = false ∧
    Instr.halt.opcodeKnown = true ∧ (∃ t, exec .halt State.reset = .next t) ∧ Cycling (placed 15) ∧
    (placed 15).slots[2] = some 15 ∧ (decode 15).opcodeKnown = false ∧
    (nextOf (step (placed 15))).map (fun t => (t.stopReason, t.diag)) =
      some (.faultUnknownOpcode, some ⟨.unknownOpcode, 15⟩) :=
  ⟨rfl, rfl, rfl, ⟨_, rfl⟩, by decide, by decide, by decide, by decide⟩
theorem witness_FatalStopFinishesItsCycle : Cycling (placed wBad) ∧ (placed wBad).slots[2] = some wBad ∧
    firstBad (decode wBad).regFields = some 16 ∧ Cycling (placed 8) ∧ (placed 8).slots[2] = some 8 ∧
    (decode 8).opcodeKnown = false := by decide
/-- One instruction of each kind the three clauses name. -/
theorem witness_FlagsFollowTheWrittenResult :
    (Instr.loadImmediate 15 0).regsValid = true ∧ (∃ t, exec (.loadImmediate 15 0) State.reset = .next t) ∧
    (∃ t, exec (.loadRegister 15 0) State.reset = .next t) ∧ (∃ t, exec (.add 15 0 0) State.reset = .next t) ∧
    (∃ t, exec (.mul 15 0 0) State.reset = .next t) ∧ (∃ t, exec (.mac 15 0 0) State.reset = .next t) ∧
    (∃ t, exec (.store 0 0) State.reset = .next t) ∧ (∃ t, exec (.out 0 0) State.reset = .next t) ∧
    (Instr.add 16 0 0).regsValid = false ∧ Cycling State.reset ∧ State.reset.slots[2] = none ∧
    ∃ t, step State.reset = .next t :=
  ⟨rfl, ⟨_, rfl⟩, ⟨_, rfl⟩, ⟨_, rfl⟩, ⟨_, rfl⟩, ⟨_, rfl⟩, ⟨_, rfl⟩, ⟨_, rfl⟩, by decide, by decide, rfl, ⟨_, rfl⟩⟩
/-- A state with the carry set, which no run reaches: an instruction that writes the flags clears it, a STORE keeps it;
and a run. -/
theorem witness_CarryIsNeverSet :
    (Instr.add 2 0 1).regsValid = true ∧
    (run1 wAdd (State.reset.setFlags false false true)).map (fun t => t.c) = some false ∧
    (run1 wStore (State.reset.setFlags false false true)).map (fun t => t.c) = some true ∧
    ∃ s, runFor 2 (launch [wAdd]) = .next s :=
  ⟨by decide, by decide, by decide, ⟨_, launch_two_cycles wAdd⟩⟩
theorem witness_ArithmeticWrapsModuloTwoPow32 : (2#32).toNat < 16 ∧ (15#32).toNat < 16 := by decide
theorem witness_NoInstructionReadsTheFlags : ∃ t, exec (decode wAdd) State.reset = .next t := ⟨_, rfl⟩
theorem witness_BusRegions : (1023#16).toNat < 1024 ∧ State.reset.mem.wf = true ∧ 1024 ≤ (1024#16).toNat ∧
    (0x7FFF#16).toNat < 0x8000 ∧ 0x8010 ≤ (0x8010#16).toNat ∧ 0x8010 ≤ (0xFFFF#16).toNat := by decide
theorem witness_GpioPins : (0 : Int) = ((0 : Fin 16).val : Int) ∧ (15 : Int) = ((15 : Fin 16).val : Int) ∧
    (-1 : Int) < 0 ∧ (16 : Int) ≤ 16 ∧ (14 : Fin 16) ≠ 15 := by decide
/-- A STORE to pin 0 emits the event. -/
theorem witness_AtMostOneEventPerCycle :
    Cycling { placed wStore with x := State.reset.x.set 0 0x8000 } ∧
    (nextOf (step { placed wStore with x := State.reset.x.set 0 0x8000 })).map (fun t => t.pinEvt) =
      some (some ⟨0, 0⟩) := by decide
theorem witness_FrameOfRegisterWriters : (∃ t, exec (.loadRegister 15 0) State.reset = .next t) ∧
    (Instr.loadRegister 15 0).regsValid = true ∧ (∃ t, exec (.mac 0 16 0) State.reset = .next t) ∧
    (Instr.mac 0 16 0).regsValid = false :=
  ⟨⟨_, rfl⟩, by decide, ⟨_, rfl⟩, by decide⟩
/-- A STORE to 1023, one to 1024, one to pin 15, and one with a bad field. -/
theorem witness_FrameOfStore :
    (∃ t, exec (.store 0 1) (regs [(0, 1023)]) = .next t) ∧ regOf 0 = some 0 ∧ regOf 1 = some 1 ∧
    (busAddrOf ((regs [(0, 1023)]).readReg 0)).toNat = 1023 ∧
    (busAddrOf ((regs [(0, 1024)]).readReg 0)).toNat = 1024 ∧
    (busAddrOf ((regs [(0, 0x800F)]).readReg 0)).toNat = 0x800F ∧
    (Instr.store 16 1).regsValid = false :=
  ⟨⟨_, rfl⟩, by decide, by decide, by decide, by decide, by decide, by decide⟩
theorem witness_FrameOfOut :
    (∃ t, exec (.out 0 1) (regs [(0, 15)]) = .next t) ∧ regOf 0 = some 0 ∧ regOf 1 = some 1 ∧
    pinIndexOf ((regs [(0, 15)]).readReg 0) = 15 ∧ pinIndexOf ((regs [(0, -1)]).readReg 0) = -1 ∧
    (Instr.out 16 1).regsValid = false :=
  ⟨⟨_, rfl⟩, by decide, by decide, by decide, by decide, by decide⟩
theorem witness_FrameOfStops : (∃ t, exec .halt State.reset = .next t) ∧
    (∃ t, exec (.unassigned10to11 10) State.reset = .next t) ∧ (Instr.unassigned10to11 10).opcodeKnown = false :=
  ⟨⟨_, rfl⟩, ⟨_, rfl⟩, rfl⟩
theorem witness_NoInstructionMovesTheEngine : ∃ t, exec (decode wStore) (placed wStore) = .next t := ⟨_, rfl⟩
theorem witness_StepKeepsInvariant : MachineInv (placed wStore) ∧ ∃ t, step (placed wStore) = .next t :=
  ⟨by decide, ⟨_, rfl⟩⟩
/-- After 0 cycles, and after 2, when the first instruction stands in the Execute slot. -/
theorem witness_CycleKeepsTheTimeline : Cycling (launch [wAdd]) ∧ AfterCycles 0 (launch [wAdd]) ∧
    Cycling (placed wAdd) ∧ AfterCycles 2 (placed wAdd) ∧ ∃ t, step (placed wAdd) = .next t :=
  ⟨by decide, by decide, by decide, by decide, ⟨_, rfl⟩⟩
theorem witness_FillDrainLaw : Launched (launch [wLoad, wAdd]) ∧ 1 ≤ (launch [wLoad, wAdd]).imem.length ∧
    (∀ w ∈ (launch [wLoad, wAdd]).imem, (decode w).goesOn = true) ∧ Launched (launch []) := by
  refine ⟨by decide, by decide, fun w hw => ?_, by decide⟩
  have hw' : w = wLoad ∨ w = wAdd := by
    have h : w ∈ [wLoad, wAdd] := hw
    rw [List.mem_cons, List.mem_singleton] at h
    exact h
  rcases hw' with rfl | rfl <;> decide
/-- The first stopping instruction, of index 1, is a HALT, a bad register and an unknown opcode. -/
theorem witness_StopHappensInCycleHPlus3 : Launched (launch [wLoad, wHalt]) ∧
    (launch [wLoad, wHalt]).imem[1]? = some wHalt ∧ (decode wHalt).goesOn = false ∧ (decode wBad).goesOn = false ∧
    (decode 0).goesOn = false ∧
    (∀ k v, k < 1 → (launch [wLoad, wHalt]).imem[k]? = some v → (decode v).goesOn = true) := by
  refine ⟨by decide, by decide, by decide, by decide, by decide, fun k v hk hv => ?_⟩
  have h0 : k = 0 := by omega
  subst h0
  cases hv
  decide
theorem witness_PipelineRefinesSequentialExecution : Launched (launch [wLoad, wAdd, wHalt]) := by decide

end Sys2Proof.Tests
end

section
/-! SUPPORT. Execute and the whole clock edge, each as one case distinction: the check of the register fields before
any effect (10_state R25), what a checked instruction performs, and the kinds of step. -/

namespace Sys2Proof.Machine

/-! The check of the register fields. -/

@[simp] theorem firstBad_nil : firstBad [] = none := rfl

theorem firstBad_cons_of_lt {f : Field} (fs : List Field) (h : f.toNat < 16) : firstBad (f :: fs) = firstBad fs := by
  simp [firstBad, h]

theorem firstBad_cons_of_le {f : Field} (fs : List Field) (h : 16 ≤ f.toNat) : firstBad (f :: fs) = some f := by
  simp [firstBad, h]

theorem raiseFatal_badRegister (s : State) (f : Field) : raiseFatal s (.badRegister f) = badRegisterStop s f := rfl

/-- No used register field is bad exactly when all are valid. -/
theorem firstBad_regFields_eq_none {i : Instr} : firstBad i.regFields = none ↔ i.regsValid = true := by
  simp [firstBad, Instr.regsValid]

/-- An instruction with a bad register field is not valid. -/
theorem regsValid_of_firstBad {i : Instr} {f : Field} (h : firstBad i.regFields = some f) : i.regsValid = false := by
  rw [← Bool.not_eq_true, ← firstBad_regFields_eq_none, h]
  exact Option.some_ne_none f

/-- An opcode that names no operation uses no register field (30_encoding R76). -/
theorem regFields_of_opcodeUnknown {i : Instr} (h : i.opcodeKnown = false) : i.regFields = [] := by
  cases i with
  | nop | invalid | unassigned9 | unassigned10to11 | unassigned12to15 => rfl
  | _ => cases h

/-- An instruction with a bad register field has an opcode that names an operation. -/
theorem opcodeKnown_of_firstBad {i : Instr} {f : Field} (h : firstBad i.regFields = some f) :
    i.opcodeKnown = true := by
  rw [← Bool.not_eq_false]
  intro hk
  rw [regFields_of_opcodeUnknown hk] at h
  cases h

/-- The fields `fs` are checked in order before any effect: the first bad one stops the run, and with none the outcome
is a next state of which `P` holds. -/
def Checked (fs : List Field) (s : State) (P : State → Prop) (o : Host.Outcome State Fault Refusal) : Prop :=
  (∃ f, firstBad fs = some f ∧ o = .next (badRegisterStop s f)) ∨ (firstBad fs = none ∧ ∃ t, o = .next t ∧ P t)

theorem Checked.nil {s t : State} {P : State → Prop} (h : P t) : Checked [] s P (.next t) := .inr ⟨firstBad_nil, t, rfl, h⟩

/-- One checked field before the others, as `withReg` nests them. -/
theorem Checked.withReg {f : Field} {fs : List Field} {s : State} {P : State → Prop}
    {k : RegIx → Host.Outcome State Fault Refusal} (h : ∀ r, Checked fs s P (k r)) :
    Checked (f :: fs) s P (withReg f s k) := by
  rcases withReg_cases f s k with ⟨hf, e⟩ | ⟨hf, e⟩ <;> rw [e]
  · rw [Checked, firstBad_cons_of_lt fs hf]
    exact h _
  · exact .inl ⟨f, firstBad_cons_of_le fs hf, by rw [raiseFatal_badRegister]⟩

/-! What a checked instruction performs. -/

/-- The diagnostic port keeps its value or takes one of the four reports that stop nothing (60_exceptions R144). -/
def MildReport (old new : Option Diag) : Prop :=
  new = old ∨ ∃ d, new = some d ∧ d.code ≠ .unknownOpcode ∧ d.code ≠ .badRegister

/-- After a mild report, a report of a fatal code is the one that stood there before. -/
theorem MildReport.fatal_kept {old new : Option Diag} {d : Diag} (h : MildReport old new) (hd : new = some d)
    (hc : d.code = .unknownOpcode ∨ d.code = .badRegister) : old = some d := by
  rcases h with rfl | ⟨e, he, h1, h2⟩
  · exact hd
  · cases he.symm.trans hd
    exact absurd hc (not_or.mpr ⟨h1, h2⟩)

/-- What Execute performs once the register fields are checked: LOAD and the arithmetic write a result, STORE and OUT
write memory or a pin, HALT stops, an opcode that names no operation is fatal. -/
inductive Performed (s : State) : Instr → State → Prop
  | result {i : Instr} {d : RegIx} {v : Word} {dg : Option Diag} (hk : i.opcodeKnown = true) (hh : i ≠ .halt)
      (hd : MildReport s.diag dg) : Performed s i (writeResult { s with diag := dg } d v)
  | write {i : Instr} {m : Memory} {g : Vector Word Config.gpioPins} {dg : Option Diag} {e : Option PinEvent}
      (hk : i.opcodeKnown = true) (hh : i ≠ .halt) (hd : MildReport s.diag dg) :
      Performed s i { s with mem := m, gpio := g, diag := dg, pinEvt := e }
  | halt : Performed s .halt (s.stop .halted)
  | unknown {i : Instr} (hk : i.opcodeKnown = false) : Performed s i (unknownOpcodeStop s i.opcode)

theorem busRead_mildReport (s : State) (a : BusAddr) :
    ∃ dg, (busRead s a).2 = { s with diag := dg } ∧ MildReport s.diag dg := by
  rcases busRead_cases s a with ⟨_, h⟩ | ⟨_, _, h⟩ | ⟨_, _, h⟩ | ⟨_, h⟩ <;> rw [h]
  · exact ⟨_, rfl, .inl rfl⟩
  · exact ⟨_, rfl, .inr ⟨_, rfl, nofun, nofun⟩⟩
  · exact ⟨_, rfl, .inl rfl⟩
  · exact ⟨_, rfl, .inr ⟨_, rfl, nofun, nofun⟩⟩

theorem Performed.busWrite {i : Instr} (s : State) (a : BusAddr) (v : Word) (hk : i.opcodeKnown = true)
    (hh : i ≠ .halt) : Performed s i (busWrite s a v) := by
  rcases busWrite_cases s a v with ⟨_, h⟩ | ⟨_, _, h⟩ | ⟨_, _, h⟩ | ⟨_, h⟩ <;> rw [h]
  · exact .write hk hh (.inl rfl)
  · exact .write hk hh (.inr ⟨_, rfl, nofun, nofun⟩)
  · exact .write hk hh (.inl rfl)
  · exact .write hk hh (.inr ⟨_, rfl, nofun, nofun⟩)

theorem Performed.gpioWrite {i : Instr} (s : State) (p : Int) (v : Word) (hk : i.opcodeKnown = true)
    (hh : i ≠ .halt) : Performed s i (gpioWrite s p v) := by
  rcases gpioWrite_cases s p v with ⟨_, _, h⟩ | ⟨_, h⟩ <;> rw [h]
  · exact .write hk hh (.inl rfl)
  · exact .write hk hh (.inr ⟨_, rfl, nofun, nofun⟩)

theorem Performed.loaded {i : Instr} (s : State) (d : RegIx) (a : BusAddr) (hk : i.opcodeKnown = true)
    (hh : i ≠ .halt) : Performed s i (writeResult (busRead s a).2 d (busRead s a).1) := by
  obtain ⟨dg, h, hd⟩ := busRead_mildReport s a
  rw [h]
  exact .result hk hh hd

/-- Every instruction: its used register fields are checked, then it performs what it is to. -/
theorem exec_checked (i : Instr) (s : State) : Checked i.regFields s (Performed s i) (exec i s) := by
  cases i
  case loadImmediate op1 op2 => exact .withReg fun d => .nil (.result rfl nofun (.inl rfl))
  case loadRegister op1 op2 => exact .withReg fun d => .withReg fun a => .nil (.loaded s d _ rfl nofun)
  case store op1 op2 => exact .withReg fun a => .withReg fun v => .nil (.busWrite s _ _ rfl nofun)
  case add op1 op2 op3 =>
    exact .withReg fun d => .withReg fun a => .withReg fun b => .nil (.result rfl nofun (.inl rfl))
  case mul op1 op2 op3 =>
    exact .withReg fun d => .withReg fun a => .withReg fun b => .nil (.result rfl nofun (.inl rfl))
  case mac op1 op2 op3 =>
    exact .withReg fun d => .withReg fun a => .withReg fun b => .nil (.result rfl nofun (.inl rfl))
  case out op1 op2 => exact .withReg fun p => .withReg fun v => .nil (.gpioWrite s _ _ rfl nofun)
  case halt => exact .nil .halt
  case nop => exact .nil (.unknown rfl)
  case invalid => exact .nil (.unknown rfl)
  case unassigned9 => exact .nil (.unknown rfl)
  case unassigned10to11 opcode => exact .nil (.unknown rfl)
  case unassigned12to15 opcode => exact .nil (.unknown rfl)

/-- A bad register field: the fatal stop, and nothing else (60_exceptions R143). -/
theorem exec_of_firstBad {i : Instr} {f : Field} (s : State) (h : firstBad i.regFields = some f) :
    exec i s = .next (badRegisterStop s f) := by
  rcases exec_checked i s with ⟨g, hg, e⟩ | ⟨hn, _⟩
  · cases hg.symm.trans h
    exact e
  · cases hn.symm.trans h

/-- With valid register fields, the next state is what the instruction performs. -/
theorem performed_of_exec {i : Instr} {s t : State} (h : firstBad i.regFields = none) (ht : exec i s = .next t) :
    Performed s i t := by
  rcases exec_checked i s with ⟨g, hg, _⟩ | ⟨_, u, hu, hp⟩
  · cases hg.symm.trans h
  · cases hu.symm.trans ht
    exact hp

/-- Every instruction has a next state (40_pipeline R95). -/
theorem exec_next (i : Instr) (s : State) : ∃ t, exec i s = .next t := by
  rcases exec_checked i s with ⟨f, _, e⟩ | ⟨_, t, e, _⟩
  · exact ⟨_, e⟩
  · exact ⟨t, e⟩

/-- Execute leaves the slots as Fetch filled them (40_pipeline R100). -/
theorem exec_slots {i : Instr} {s t : State} (ht : exec i s = .next t) : t.slots = s.slots := by
  cases hb : firstBad i.regFields with
  | some f =>
    cases (exec_of_firstBad s hb).symm.trans ht
    rfl
  | none => cases performed_of_exec hb ht <;> rfl

/-! What a cycle does around Execute. -/

@[simp] theorem beginCycle_running (s : State) : (beginCycle s).running = s.running := by
  obtain ⟨w, p, a, h⟩ := fetch_frame (clearPorts s)
  rw [beginCycle, h]
  rfl

@[simp] theorem beginCycle_stopReason (s : State) : (beginCycle s).stopReason = s.stopReason := by
  obtain ⟨w, p, a, h⟩ := fetch_frame (clearPorts s)
  rw [beginCycle, h]
  rfl

@[simp] theorem beginCycle_slot2 (s : State) : (beginCycle s).slots[2] = s.slots[2] := by
  obtain ⟨w, p, a, h⟩ := fetch_frame (clearPorts s)
  simp [beginCycle, h]

/-- An executed word stands in slot 3 after Advance, so the drain test leaves its cycle alone (40_pipeline R97). -/
theorem endCycle_of_executed {u : State} {w : Diw} (h : u.slots[2] = some w) : endCycle u = advance u :=
  drainTest_of_not_drained (by simp [drained, h])

/-! The step. -/

/-- The four kinds of step that have a next state (10_state R39, 40_pipeline R90, R91). -/
inductive Stepped (s : State) : State → Prop
  | reset (h : s.rst = true) : Stepped s (resetEdge s)
  | idle (h : s.rst = false) (hr : s.running = false) : Stepped s (clearPorts s)
  | emptyCycle (hc : Cycling s) (h2 : s.slots[2] = none) : Stepped s (endCycle (beginCycle s))
  | cycle {w : Diw} {u : State} (hc : Cycling s) (h2 : s.slots[2] = some w)
      (hu : exec (decode w) (beginCycle s) = .next u) : Stepped s (advance u)

theorem step_of_reset {s : State} (h : s.rst = true) : step s = .next (resetEdge s) := by
  simp only [step, edgeOf_reset h]

theorem step_of_idle {s : State} (h : s.rst = false) (hr : s.running = false) : step s = .next (clearPorts s) := by
  simp only [step, edgeOf_idle h hr]

theorem step_of_tooLong {s : State} (h : s.rst = false) (hr : s.running = true) (hN : 1024 < s.imem.length) :
    step s = .refused .programTooLong := by
  simp only [step, edgeOf_tooLong h hr hN]

theorem step_of_emptySlot2 {s : State} (hc : Cycling s) (h2 : s.slots[2] = none) :
    step s = .next (endCycle (beginCycle s)) := by
  obtain ⟨h, hr, hN⟩ := hc
  simp only [step, edgeOf_cycle h hr hN, executing_beginCycle, h2, Option.map_none]

theorem step_of_executed {s u : State} {w : Diw} (hc : Cycling s) (h2 : s.slots[2] = some w)
    (hu : exec (decode w) (beginCycle s) = .next u) : step s = .next (advance u) := by
  have hu2 : u.slots[2] = some w := by
    rw [exec_slots hu, beginCycle_slot2, h2]
  obtain ⟨h, hr, hN⟩ := hc
  simp only [step, edgeOf_cycle h hr hN, executing_beginCycle, h2, Option.map_some, hu, endCycle_of_executed hu2]

/-- A step that has a next state is of one of the four kinds. -/
theorem stepped_of_step {s t : State} (ht : step s = .next t) : Stepped s t := by
  by_cases hrst : s.rst = true
  · cases (step_of_reset hrst).symm.trans ht
    exact .reset hrst
  rw [Bool.not_eq_true] at hrst
  by_cases hr : s.running = true
  · by_cases hN : s.imem.length ≤ 1024
    · have hc : Cycling s := ⟨hrst, hr, hN⟩
      cases h2 : s.slots[2] with
      | none =>
        cases (step_of_emptySlot2 hc h2).symm.trans ht
        exact .emptyCycle hc h2
      | some w =>
        obtain ⟨u, hu⟩ := exec_next (decode w) (beginCycle s)
        cases (step_of_executed hc h2 hu).symm.trans ht
        exact .cycle hc h2 hu
    · cases (step_of_tooLong hrst hr (Nat.not_le.mp hN)).symm.trans ht
  · rw [Bool.not_eq_true] at hr
    cases (step_of_idle hrst hr).symm.trans ht
    exact .idle hrst hr

end Sys2Proof.Machine
end

section
/-! PROOFS. How a run stops (10_state R32). -/

namespace Sys2Proof.Machine

/-- How an executed instruction leaves `running` and the stop reason: as they were, or stopped by HALT, by an opcode
that names no operation, or by a bad register field. -/
inductive RunAfter (s : State) (i : Instr) (t : State) : Prop
  | kept (hr : t.running = s.running) (hs : t.stopReason = s.stopReason)
  | halted (hi : i = .halt) (hr : t.running = false) (hs : t.stopReason = .halted)
  | unknownOpcode (hi : i.opcodeKnown = false) (hr : t.running = false) (hs : t.stopReason = .faultUnknownOpcode)
  | badRegister (hk : i.opcodeKnown = true) (hv : i.regsValid = false) (hr : t.running = false)
      (hs : t.stopReason = .faultBadRegister)

theorem exec_runAfter {i : Instr} {s t : State} (ht : exec i s = .next t) : RunAfter s i t := by
  cases hb : firstBad i.regFields with
  | some f =>
    cases (exec_of_firstBad s hb).symm.trans ht
    exact .badRegister (opcodeKnown_of_firstBad hb) (regsValid_of_firstBad hb) rfl rfl
  | none =>
    cases performed_of_exec hb ht with
    | result => exact .kept rfl rfl
    | write => exact .kept rfl rfl
    | halt => exact .halted rfl rfl rfl
    | unknown hk => exact .unknownOpcode hk rfl rfl

/-- The drain test stops as DRAINED or leaves the run as it is. -/
theorem endCycle_run (s : State) :
    ((endCycle s).running = false ∧ (endCycle s).stopReason = .drained) ∨
    ((endCycle s).running = s.running ∧ (endCycle s).stopReason = s.stopReason) := by
  rcases drainTest_cases (advance s) with ⟨_, _, h⟩ | ⟨_, h⟩ <;> rw [endCycle, h]
  · exact .inl ⟨rfl, rfl⟩
  · exact .inr ⟨rfl, rfl⟩

end Sys2Proof.Machine

open Sys2Proof Sys2Proof.Machine

/-- Settles O11, by the kinds of step and, in a cycle that executes, by how the instruction leaves the run. -/
theorem runStopsInExactlyThreeWays : Obligations.RunStopsInExactlyThreeWays := by
  intro s t ht
  cases stepped_of_step ht with
  | reset h => simp [h, resetEdge]
  | idle h hr => simp [h, hr]
  | emptyCycle hc h2 =>
    obtain ⟨h, hr, _⟩ := hc
    rcases endCycle_run (beginCycle s) with ⟨hr', hs'⟩ | ⟨hr', hs'⟩ <;> simp [h, hr, h2, hr', hs']
  | cycle hc h2 hu =>
    obtain ⟨h, hr, _⟩ := hc
    cases exec_runAfter hu with
    | kept hr' hs' => simp [h, hr, hr', hs']
    | halted hi hr' hs' => simp [h, hr, h2, hi, hr', hs']
    | unknownOpcode hi hr' hs' => simp [h, hr, h2, hi, hr', hs']
    | badRegister hk hv hr' hs' => simp [h, hr, h2, hk, hv, hr', hs']

/-- Settles O25: the check comes before what the instruction performs, and nothing performed is a stop or a report for
a bad register. -/
theorem badRegisterStopsBeforeAnyEffect : Obligations.BadRegisterStopsBeforeAnyEffect := by
  intro i s
  refine ⟨fun f hf => ⟨exec_of_firstBad s hf, rfl, rfl, rfl⟩, fun hn t ht => ?_⟩
  cases performed_of_exec hn ht with
  | result _ _ hd => exact ⟨id, fun v hv => hd.fatal_kept hv (.inr rfl)⟩
  | write _ _ hd => exact ⟨id, fun v hv => hd.fatal_kept hv (.inr rfl)⟩
  | halt => exact ⟨nofun, fun _ => id⟩
  | unknown => exact ⟨nofun, nofun⟩

end

section
/-! PROOFS. Execute and the flags (10_state R27). -/

namespace Sys2Proof.Machine

/-! The devices do not look at the flags: they answer alike and keep whatever flags are put in. -/

theorem gpioRead_setFlags (s : State) (p : Int) (z nf c : Bool) :
    gpioRead (s.setFlags z nf c) p = ((gpioRead s p).1, (gpioRead s p).2.setFlags z nf c) := by
  unfold gpioRead
  cases pinOf p <;> rfl

theorem gpioWrite_setFlags (s : State) (p : Int) (v : Word) (z nf c : Bool) :
    gpioWrite (s.setFlags z nf c) p v = (gpioWrite s p v).setFlags z nf c := by
  unfold gpioWrite
  cases pinOf p <;> rfl

theorem busRead_setFlags (s : State) (a : BusAddr) (z nf c : Bool) :
    busRead (s.setFlags z nf c) a = ((busRead s a).1, (busRead s a).2.setFlags z nf c) := by
  unfold busRead
  split_ifs
  · rfl
  · exact gpioRead_setFlags s _ z nf c
  · rfl

theorem busWrite_setFlags (s : State) (a : BusAddr) (v : Word) (z nf c : Bool) :
    busWrite (s.setFlags z nf c) a v = (busWrite s a v).setFlags z nf c := by
  unfold busWrite
  split_ifs
  · rfl
  · exact gpioWrite_setFlags s _ v z nf c
  · rfl

theorem readReg_setFlags (s : State) (r : RegIx) (z nf c : Bool) : (s.setFlags z nf c).readReg r = s.readReg r := rfl

/-- A result overwrites whatever flags are put in. -/
theorem writeResult_setFlags (s : State) (d : RegIx) (v : Word) (z nf c : Bool) :
    writeResult (s.setFlags z nf c) d v = writeResult s d v := rfl

/-- The outcome `o'` is `o` with the flags `z nf c` put in at most: a next state has these, or the flags of `o`. -/
inductive FlagBlind (z nf c : Bool) : (o o' : Host.Outcome State Fault Refusal) → Prop
  | keeps (t : State) : FlagBlind z nf c (.next t) (.next (t.setFlags z nf c))
  | writes (t : State) : FlagBlind z nf c (.next t) (.next t)

theorem FlagBlind.withReg {f : Field} {s : State} {z nf c : Bool} {k k' : RegIx → Host.Outcome State Fault Refusal}
    (h : ∀ r, FlagBlind z nf c (k r) (k' r)) :
    FlagBlind z nf c (withReg f s k) (withReg f (s.setFlags z nf c) k') := by
  by_cases hf : f.toNat < 16
  · rw [withReg_of_lt _ _ hf, withReg_of_lt _ _ hf]
    exact h _
  · rw [withReg_of_le _ _ (Nat.not_lt.mp hf), withReg_of_le _ _ (Nat.not_lt.mp hf)]
    exact .keeps _

theorem FlagBlind.result (s : State) (d : RegIx) (v : Word) (z nf c : Bool) :
    FlagBlind z nf c (.next (writeResult s d v)) (.next (writeResult (s.setFlags z nf c) d v)) := by
  rw [writeResult_setFlags]
  exact .writes _

/-- Every instruction treats the flags put in as a value it does not read. -/
theorem exec_flagBlind (i : Instr) (s : State) (z nf c : Bool) :
    FlagBlind z nf c (exec i s) (exec i (s.setFlags z nf c)) := by
  cases i
  case loadImmediate op1 op2 => exact .withReg fun d => .result s d op2 z nf c
  case loadRegister op1 op2 =>
    refine .withReg fun d => .withReg fun a => ?_
    dsimp only
    rw [readReg_setFlags, busRead_setFlags]
    exact .result _ d _ z nf c
  case store op1 op2 =>
    refine .withReg fun a => .withReg fun v => ?_
    rw [busWrite_setFlags]
    exact .keeps _
  case add op1 op2 op3 => exact .withReg fun d => .withReg fun a => .withReg fun b => .result s d _ z nf c
  case mul op1 op2 op3 => exact .withReg fun d => .withReg fun a => .withReg fun b => .result s d _ z nf c
  case mac op1 op2 op3 => exact .withReg fun d => .withReg fun a => .withReg fun b => .result s d _ z nf c
  case out op1 op2 =>
    refine .withReg fun p => .withReg fun v => ?_
    rw [gpioWrite_setFlags]
    exact .keeps _
  case halt => exact .keeps _
  case nop => exact .keeps _
  case invalid => exact .keeps _
  case unassigned9 => exact .keeps _
  case unassigned10to11 opcode => exact .keeps _
  case unassigned12to15 opcode => exact .keeps _

/-- The status port's bits 0, 1, 2 are Z, Nf, C (10_state R27). -/
theorem statusPort_bits (s : State) :
    s.statusPort.getLsbD 0 = s.z ∧ s.statusPort.getLsbD 1 = s.nf ∧ s.statusPort.getLsbD 2 = s.c := by
  simp only [State.statusPort, BitVec.getLsbD_append]
  refine ⟨?_, ?_, ?_⟩ <;> simp

end Sys2Proof.Machine

open Sys2Proof Sys2Proof.Machine

/-- Settles O31: execution keeps the flags put in or overwrites them, whichever instruction it is. -/
theorem noInstructionReadsTheFlags : Obligations.NoInstructionReadsTheFlags := by
  refine ⟨fun i s t z nf c ht => ?_, statusPort_bits⟩
  change ∃ z' nf' c', exec i (s.setFlags z nf c) = .next (t.setFlags z' nf' c') ∧ _
  have hb := exec_flagBlind i s z nf c
  rw [ht] at hb
  generalize exec i (s.setFlags z nf c) = o at hb
  cases hb with
  | keeps => exact ⟨z, nf, c, rfl, .inl ⟨rfl, rfl, rfl⟩⟩
  | writes => exact ⟨t.z, t.nf, t.c, rfl, .inr ⟨rfl, rfl, rfl⟩⟩

end

section
/-! PROOFS. The bus, its two devices and the instruction memory (20_memory). -/

namespace Sys2Proof.Machine

/-! The regions of the bus map (20_memory R54). -/

theorem busRead_of_bank (s : State) {a : BusAddr} (h : a.toNat < 1024) :
    busRead s a = (s.mem.read a.toNat, s) := by
  rcases busRead_cases s a with ⟨_, e⟩ | ⟨_, _, _⟩ | ⟨_, _, _⟩ | ⟨_, _⟩
  · exact e
  all_goals omega

theorem busWrite_of_bank (s : State) {a : BusAddr} (v : Word) (h : a.toNat < 1024) :
    busWrite s a v = s.writeMem a.toNat v := by
  rcases busWrite_cases s a v with ⟨_, e⟩ | ⟨_, _, _⟩ | ⟨_, _, _⟩ | ⟨_, _⟩
  · exact e
  all_goals omega

theorem busRead_of_gap (s : State) {a : BusAddr} (h : 1024 ≤ a.toNat) (h' : a.toNat < 0x8000) :
    busRead s a = (0, s.report .busReadUnmapped (a.setWidth 32)) := by
  rcases busRead_cases s a with ⟨_, _⟩ | ⟨_, _, e⟩ | ⟨_, _, _⟩ | ⟨_, _⟩
  case inr.inl => exact e
  all_goals omega

theorem busWrite_of_gap (s : State) {a : BusAddr} (v : Word) (h : 1024 ≤ a.toNat) (h' : a.toNat < 0x8000) :
    busWrite s a v = s.report .busWriteUnmapped (a.setWidth 32) := by
  rcases busWrite_cases s a v with ⟨_, _⟩ | ⟨_, _, e⟩ | ⟨_, _, _⟩ | ⟨_, _⟩
  case inr.inl => exact e
  all_goals omega

/-- The bus addresses at which no device answers: the gap, and the GPIO range beyond the last pin (20_memory R56,
R59). -/
abbrev BusInvalid (a : BusAddr) : Prop := (1024 ≤ a.toNat ∧ a.toNat < 0x8000) ∨ 0x8010 ≤ a.toNat

theorem busRead_of_invalid (s : State) {a : BusAddr} (h : BusInvalid a) :
    ∃ d, busRead s a = (0, { s with diag := some d }) := by
  rcases busRead_cases s a with ⟨_, _⟩ | ⟨_, _, e⟩ | ⟨_, _, _⟩ | ⟨_, e⟩
  · omega
  · exact ⟨_, e⟩
  · omega
  · exact ⟨_, e⟩

theorem busWrite_of_invalid (s : State) {a : BusAddr} (v : Word) (h : BusInvalid a) :
    ∃ d, busWrite s a v = { s with diag := some d } := by
  rcases busWrite_cases s a v with ⟨_, _⟩ | ⟨_, _, e⟩ | ⟨_, _, _⟩ | ⟨_, e⟩
  · omega
  · exact ⟨_, e⟩
  · omega
  · exact ⟨_, e⟩

/-! What a read answers does not depend on what has been reported. -/

theorem gpioRead_report_value (s : State) (code : DiagCode) (info : Word) (pin : Int) :
    (gpioRead (s.report code info) pin).1 = (gpioRead s pin).1 := by
  unfold gpioRead
  cases pinOf pin <;> rfl

theorem busRead_report_value (s : State) (code : DiagCode) (info : Word) (a : BusAddr) :
    (busRead (s.report code info) a).1 = (busRead s a).1 := by
  unfold busRead
  split_ifs
  · rfl
  · exact gpioRead_report_value s code info _
  · rfl

/-! The pins written by a signed index (20_memory R58). -/

theorem gpioWrite_of_pin (s : State) (p : PinIx) (v : Word) :
    gpioWrite s (p.val : Int) v = (s.writePin p v).pinEvent p v := by
  simp only [gpioWrite, pinOf_eq_some.mpr rfl]

theorem gpioWrite_of_outside (s : State) {pin : Int} (v : Word) (h : pin < 0 ∨ 16 ≤ pin) :
    gpioWrite s pin v = s.report .gpioWriteRange (trunc32 pin) := by
  have hp : ¬(0 ≤ pin ∧ pin < 16) := by omega
  simp only [gpioWrite, pinOf_of_not hp]

/-! The instruction memory and the level of `rst`: nothing in a step writes them (20_memory R66, 10_state R39). -/

/-- The launched program and the level of `rst` of two states are the same. -/
abbrev ProgramSame (s t : State) : Prop := t.imem = s.imem ∧ t.rst = s.rst

theorem exec_programSame {i : Instr} {s t : State} (ht : exec i s = .next t) : ProgramSame s t := by
  rcases exec_shape i s with ⟨_, _, _, e⟩ | ⟨_, _, _, _, e, _⟩ | e | ⟨_, e⟩ <;>
    cases e.symm.trans ht <;> exact ⟨rfl, rfl⟩

theorem beginCycle_programSame (s : State) : ProgramSame s (beginCycle s) := by
  obtain ⟨w, p, a, h⟩ := fetch_frame (clearPorts s)
  rw [beginCycle, h]
  exact ⟨rfl, rfl⟩

theorem endCycle_programSame (s : State) : ProgramSame s (endCycle s) := by
  rcases drainTest_cases (advance s) with ⟨_, _, h⟩ | ⟨_, h⟩ <;> rw [endCycle, h] <;> exact ⟨rfl, rfl⟩

theorem ProgramSame.trans {s t u : State} (h : ProgramSame s t) (h' : ProgramSame t u) : ProgramSame s u :=
  ⟨h'.1.trans h.1, h'.2.trans h.2⟩

end Sys2Proof.Machine

open Sys2Proof Sys2Proof.Machine

/-- Settles O12, by the kinds of step. -/
theorem noStepChangesTheProgram : Obligations.NoStepChangesTheProgram := by
  intro s t ht
  cases stepped_of_step ht with
  | reset => exact ⟨rfl, rfl⟩
  | idle => exact ⟨rfl, rfl⟩
  | emptyCycle => exact (beginCycle_programSame s).trans (endCycle_programSame _)
  | cycle _ _ hu =>
    obtain ⟨himem, hrst⟩ := (beginCycle_programSame s).trans (exec_programSame hu)
    exact ⟨himem, hrst⟩

/-- Settles O32: below 1024 the bus is the Memory Bank, whose canonical form makes a read answer the last write. -/
theorem memoryBankRoundTrip : Obligations.MemoryBankRoundTrip := by
  intro s a v ha
  rw [busWrite_of_bank s v ha]
  refine ⟨busRead_of_bank s ha, ⟨_, rfl, fun b hb => Memory.read_write_other v hb⟩, fun hwf => ?_⟩
  rw [busRead_of_bank _ ha, State.writeMem_mem, Memory.read_write_same v hwf]

/-- Settles O33: a write to the gap is a report, which no read looks at. -/
theorem gapIsInert : Obligations.GapIsInert := by
  intro s a v h h'
  rw [busWrite_of_gap s v h h']
  exact ⟨busRead_of_gap s h h', rfl, fun b => busRead_report_value s _ _ b⟩

/-- Settles O34: neither `running` nor the stop reason is among the fields a bus access may change, and where no device
answers it changes the diagnostic port alone. -/
theorem busAccessNeverStops : Obligations.BusAccessNeverStops := by
  intro s a v
  obtain ⟨_, hr⟩ := busRead_frame s a
  obtain ⟨_, _, _, _, hw⟩ := busWrite_frame s a v
  refine ⟨by rw [hr], by rw [hr], by rw [hw], by rw [hw], fun h => ?_⟩
  obtain ⟨d, hd⟩ := busRead_of_invalid s h
  rw [hd]
  exact ⟨rfl, ⟨d, rfl⟩, busWrite_of_invalid s v h⟩

/-- Settles O35: a signed index in range names its pin, any other none. -/
theorem gpioWriteStoresAndEmits : Obligations.GpioWriteStoresAndEmits := by
  intro s pin v
  refine ⟨?_, gpioWrite_of_outside s v⟩
  rintro p rfl
  exact gpioWrite_of_pin s p v

end

section
/-! SUPPORT. The fields of a record that the decoder ignores (30_encoding R72, R75, R77): changing one of them, under
an opcode that does not use it (R76), changes no instruction. -/

namespace Sys2Proof

/-- Only LOAD looks at the `imm` bit (30_encoding R72). -/
theorem ofFields_imm_unused {op : Opcode} (h : op ≠ 1#4) (imm imm' : Bool) (a b c : Field) :
    ofFields op imm a b c = ofFields op imm' a b c := by
  unfold ofFields
  split
  case h_2 => exact absurd rfl h
  all_goals rfl

/-- Only the opcodes 1 to 6 look at `op1` and `op2` (30_encoding R76). -/
theorem ofFields_op1_op2_unused {op : Opcode} (h : ¬(1 ≤ op.toNat ∧ op.toNat ≤ 6)) (imm : Bool)
    (a a' b b' c : Field) : ofFields op imm a b c = ofFields op imm a' b' c := by
  unfold ofFields
  split
  case h_2 | h_3 | h_4 | h_5 | h_6 | h_7 => exact absurd (by decide) h
  all_goals rfl

/-- Only the opcodes 3 to 5 look at `op3` (30_encoding R76). -/
theorem ofFields_op3_unused {op : Opcode} (h : ¬(3 ≤ op.toNat ∧ op.toNat ≤ 5)) (imm : Bool) (a b c c' : Field) :
    ofFields op imm a b c = ofFields op imm a b c' := by
  unfold ofFields
  split
  case h_4 | h_5 | h_6 => exact absurd (by decide) h
  all_goals rfl

/-- Records with one opcode that agree on the fields this opcode uses stand for one instruction: the fields are
exchanged in turn, each because it agrees or because it is not used. -/
theorem ofFields_eq_of_used_eq {op : Opcode} {imm imm' : Bool} {a a' b b' c c' : Field}
    (himm : op = 1#4 → imm = imm') (hab : 1 ≤ op.toNat ∧ op.toNat ≤ 6 → a = a' ∧ b = b')
    (hc : 3 ≤ op.toNat ∧ op.toNat ≤ 5 → c = c') : ofFields op imm a b c = ofFields op imm' a' b' c' := by
  calc ofFields op imm a b c
    _ = ofFields op imm' a b c := by
      by_cases h : op = 1#4
      · rw [himm h]
      · exact ofFields_imm_unused h imm imm' a b c
    _ = ofFields op imm' a' b' c := by
      by_cases h : 1 ≤ op.toNat ∧ op.toNat ≤ 6
      · rw [(hab h).1, (hab h).2]
      · exact ofFields_op1_op2_unused h imm' a a' b b' c
    _ = ofFields op imm' a' b' c' := by
      by_cases h : 3 ≤ op.toNat ∧ op.toNat ≤ 5
      · rw [hc h]
      · exact ofFields_op3_unused h imm' a' b' c c'

end Sys2Proof

open Sys2Proof Sys2Proof.Machine

/-- Settles O5: decoding is `ofFields` of the word's fields, so the reserved bits play no part, and `ofFields` ignores
every field its opcode does not use. -/
theorem unusedBitsAreIgnored : Obligations.UnusedBitsAreIgnored := by
  intro w w' hop himm hab hc
  calc decode w
    _ = ofFields (diwOpcode w) (diwImm w') (diwOp1 w') (diwOp2 w') (diwOp3 w') := ofFields_eq_of_used_eq himm hab hc
    _ = decode w' := congrArg (ofFields · _ _ _ _) hop

end

section
/-! PROOFS. The clock edge: what a cycle fetches and shifts, and what a stopped engine does not do (40_pipeline R90 to
R96). -/

namespace Sys2Proof.Machine

/-! Execute. -/

/-- No instruction touches `pc`, the slots, the program, `rst` or the fetch port (40_pipeline R100). -/
theorem exec_engineSame {i : Instr} {s t : State} (ht : exec i s = .next t) : EngineSame s t := by
  rcases exec_shape i s with ⟨_, _, _, e⟩ | ⟨_, _, _, _, e, _⟩ | e | ⟨_, e⟩ <;>
    cases e.symm.trans ht <;> exact ⟨rfl, rfl, rfl, rfl, rfl⟩

/-! Fetch, after the event ports have fallen. -/

theorem beginCycle_loads {s : State} (h0 : s.slots[0] = none) (hN : s.pc.toNat < s.imem.length) :
    beginCycle s = { clearPorts s with
      slots := s.slots.set 0 (some s.imem[s.pc.toNat])
      pc := s.pc + 1
      ifPort := some s.pc } :=
  fetch_loads (s := clearPorts s) h0 hN

theorem beginCycle_holds {s : State} (h : ¬(s.slots[0] = none ∧ s.pc.toNat < s.imem.length)) :
    beginCycle s = clearPorts s :=
  fetch_holds (s := clearPorts s) h

@[simp] theorem beginCycle_slot1 (s : State) : (beginCycle s).slots[1] = s.slots[1] := by
  obtain ⟨w, p, a, h⟩ := fetch_frame (clearPorts s)
  simp [beginCycle, h]

/-- A program of legal length keeps `pc` from wrapping when it advances (10_state R29). -/
theorem pc_succ_toNat {p : Pc} {n : Nat} (h : p.toNat < n) (hn : n ≤ 1024) : (p + 1).toNat = p.toNat + 1 := by
  have hp : p.toNat + 1 < 2 ^ 11 := by omega
  rw [BitVec.toNat_add]
  exact Nat.mod_eq_of_lt hp

/-! Advance and the drain test. -/

/-- After Advance, the drain test writes `running` and the stop reason at most (40_pipeline R97). -/
theorem endCycle_frame (s : State) : ∃ r q, endCycle s = { advance s with running := r, stopReason := q } := by
  rcases drainTest_cases (advance s) with ⟨_, _, h⟩ | ⟨_, h⟩ <;> exact ⟨_, _, h⟩

/-! The cycle. -/

/-- `t` has the `pc` and the fetch port of `b`, and its slots one further, slot 0 emptied (40_pipeline R96). -/
abbrev ShiftOf (b t : State) : Prop :=
  t.slots = #v[none, b.slots[0], b.slots[1], b.slots[2]] ∧ t.pc = b.pc ∧ t.ifPort = b.ifPort

/-- Every cycle shifts what Fetch left, whether or not an instruction executes in it. -/
theorem shiftOf_of_step {s t : State} (hc : Cycling s) (ht : step s = .next t) : ShiftOf (beginCycle s) t := by
  obtain ⟨hrst, hr, _⟩ := hc
  cases stepped_of_step ht with
  | reset h => cases hrst.symm.trans h
  | idle _ h => cases hr.symm.trans h
  | emptyCycle =>
    obtain ⟨r, q, h⟩ := endCycle_frame (beginCycle s)
    rw [h]
    exact ⟨rfl, rfl, rfl⟩
  | cycle _ _ hu =>
    obtain ⟨hpc, hslots, _, _, hif⟩ := exec_engineSame hu
    exact ⟨by rw [advance_slots, hslots], hpc, hif⟩

/-- A cycle in which nothing executes emits no event: Fetch reports nothing (40_pipeline R92). -/
theorem no_event_of_emptySlot2 {s t : State} (hc : Cycling s) (h2 : s.slots[2] = none) (ht : step s = .next t) :
    t.diag = none ∧ t.pinEvt = none := by
  cases (step_of_emptySlot2 hc h2).symm.trans ht
  obtain ⟨_, _, he⟩ := endCycle_frame (beginCycle s)
  obtain ⟨_, _, _, hb⟩ := fetch_frame (clearPorts s)
  rw [he, beginCycle, hb]
  exact ⟨rfl, rfl⟩

/-- Every cycle has a next state. -/
theorem step_next_of_cycling {s : State} (hc : Cycling s) : ∃ t, step s = .next t := by
  cases h2 : s.slots[2] with
  | none => exact ⟨_, step_of_emptySlot2 hc h2⟩
  | some w =>
    obtain ⟨u, hu⟩ := exec_next (decode w) (beginCycle s)
    exact ⟨_, step_of_executed hc h2 hu⟩

/-! The stopped engine. -/

/-- From the first edge on, every further edge finds the event ports already low. -/
theorem runFor_of_stopped {s : State} (k : Nat) (h : s.rst = false) (hr : s.running = false) :
    runFor (k + 1) s = .next (clearPorts s) := by
  induction k generalizing s with
  | zero => exact runFor_succ 0 (step_of_idle h hr)
  | succ k ih => exact (runFor_succ (k + 1) (step_of_idle h hr)).trans (ih (s := clearPorts s) h hr)

end Sys2Proof.Machine

open Sys2Proof Sys2Proof.Machine

/-- Settles O7: lowering the event ports is all an edge does, and doing it again changes nothing. -/
theorem stoppedEngineHoldsItsState : Obligations.StoppedEngineHoldsItsState :=
  fun _ k h hr => runFor_of_stopped k h hr

/-- Settles O9: the next state is the shift of what Fetch left, and Fetch has two cases. -/
theorem everyCycleFetchesAndAdvances : Obligations.EveryCycleFetchesAndAdvances := by
  intro s hc
  obtain ⟨t, ht⟩ := step_next_of_cycling hc
  obtain ⟨hslots, hpc, hif⟩ := shiftOf_of_step hc ht
  refine ⟨t, ht, by simp [hslots], by simp [hslots], by simp [hslots],
    fun h2 => no_event_of_emptySlot2 hc h2 ht, fun hN h0 => ?_, fun hno => ?_⟩
  · rw [beginCycle_loads h0 hN] at hslots hpc hif
    obtain ⟨_, _, hcap⟩ := hc
    exact ⟨by simp [hslots], by rw [hpc, pc_succ_toNat hN hcap], hif⟩
  · have hf : ¬(s.slots[0] = none ∧ s.pc.toNat < s.imem.length) := fun ⟨h0, hN⟩ =>
      hno.elim (Nat.not_le.mpr hN) (absurd h0)
    rw [beginCycle_holds hf] at hslots hpc hif
    exact ⟨by simp [hslots], hpc, hif⟩

/-- Settles O6: the edge is a cycle, and Fetch leaves slot 2 as it stood. -/
theorem stepRunsTheExecuteSlot : Obligations.StepRunsTheExecuteSlot := by
  intro s hc
  refine ⟨fun w h2 => ?_, step_of_emptySlot2 hc⟩
  obtain ⟨h, hr, hN⟩ := hc
  simp only [step, edgeOf_cycle h hr hN, executing_beginCycle, h2, Option.map_some]
  rfl

end

section
/-! PROOFS. The data transfer instructions (41_data_transfer): what their words decode to, the regions of the bus map
that no law above names, and LOAD and STORE once their register fields are valid. -/

namespace Sys2Proof

/-- A word decodes by its opcode field to what `ofFields` makes of its other fields (30_encoding R71). -/
theorem decode_of_opcode {w : Diw} {op : Opcode} (h : w.extractLsb' 0 4 = op) :
    decode w = ofFields op (diwImm w) (diwOp1 w) (diwOp2 w) (diwOp3 w) :=
  congrArg (ofFields · _ _ _ _) h

/-- Opcode 1 with `imm` 1 is LOAD, immediate form (30_encoding R72). -/
theorem decode_loadImmediate {w : Diw} (hop : w.extractLsb' 0 4 = 1#4) (himm : w.getLsbD 4 = true) :
    decode w = .loadImmediate (diwOp1 w) (diwOp2 w) :=
  (decode_of_opcode hop).trans (if_pos himm)

/-- Opcode 1 with `imm` 0 is LOAD, register form (30_encoding R72). -/
theorem decode_loadRegister {w : Diw} (hop : w.extractLsb' 0 4 = 1#4) (himm : w.getLsbD 4 = false) :
    decode w = .loadRegister (diwOp1 w) (diwOp2 w) :=
  (decode_of_opcode hop).trans (if_neg (ne_true_of_eq_false himm))

/-- Opcode 2 is STORE, whatever `imm` (30_encoding R72). -/
theorem decode_store {w : Diw} (hop : w.extractLsb' 0 4 = 2#4) : decode w = .store (diwOp1 w) (diwOp2 w) :=
  decode_of_opcode hop

end Sys2Proof

namespace Sys2Proof.Machine

/-! The GPIO range of the bus map (20_memory R54): the pins, and what lies beyond the last one. -/

theorem busRead_of_pin (s : State) {a : BusAddr} {p : Fin 16} (h : a.toNat = 0x8000 + p.val) :
    busRead s a = (s.gpio[p], s) := by
  have hp := p.isLt
  rcases busRead_cases s a with ⟨_, _⟩ | ⟨_, _, _⟩ | ⟨q, hq, e⟩ | ⟨_, _⟩
  case inr.inr.inl =>
    have hqp : q = p := by omega
    rwa [hqp] at e
  all_goals omega

theorem busWrite_of_pin (s : State) {a : BusAddr} {p : Fin 16} (v : Word) (h : a.toNat = 0x8000 + p.val) :
    busWrite s a v = (s.writePin p v).pinEvent p v := by
  have hp := p.isLt
  rcases busWrite_cases s a v with ⟨_, _⟩ | ⟨_, _, _⟩ | ⟨q, hq, e⟩ | ⟨_, _⟩
  case inr.inr.inl =>
    have hqp : q = p := by omega
    rwa [hqp] at e
  all_goals omega

/-- A bus address in the GPIO range reports its offset from the first pin, which is not negative. -/
theorem trunc32_gpioOffset {n : Nat} (h : 0x8000 ≤ n) :
    trunc32 ((n : Int) - 0x8000) = BitVec.ofNat 32 (n - 0x8000) := by
  have hn : (n : Int) - 0x8000 = ((n - 0x8000 : Nat) : Int) := by omega
  rw [hn]
  exact BitVec.ofInt_natCast ..

theorem busRead_beyond_pins (s : State) {a : BusAddr} (h : 0x8010 ≤ a.toNat) :
    busRead s a = (0, s.report .gpioReadRange (BitVec.ofNat 32 (a.toNat - 0x8000))) := by
  rw [← trunc32_gpioOffset (by omega)]
  rcases busRead_cases s a with ⟨_, _⟩ | ⟨_, _, _⟩ | ⟨p, _, _⟩ | ⟨_, e⟩
  case inr.inr.inr => exact e
  all_goals omega

theorem busWrite_beyond_pins (s : State) {a : BusAddr} (v : Word) (h : 0x8010 ≤ a.toNat) :
    busWrite s a v = s.report .gpioWriteRange (BitVec.ofNat 32 (a.toNat - 0x8000)) := by
  rw [← trunc32_gpioOffset (by omega)]
  rcases busWrite_cases s a v with ⟨_, _⟩ | ⟨_, _, _⟩ | ⟨p, _, _⟩ | ⟨_, e⟩
  case inr.inr.inr => exact e
  all_goals omega

/-! LOAD and STORE with valid register fields. -/

theorem exec_loadImmediate_of_lt {op1 : Field} (v : Word) (s : State) (h : op1.toNat < 16) :
    exec (.loadImmediate op1 v) s = .next (resultState s op1.toNat v h) :=
  withReg_of_lt s _ h

theorem exec_loadRegister_of_lt {op1 op2 : Field} {s : State} {a : BusAddr} (h1 : op1.toNat < 16)
    (h2 : op2.toNat < 16) (ha : busAddrOf s.x[op2.toNat] = a) :
    exec (.loadRegister op1 op2) s = .next (resultState (busRead s a).2 op1.toNat (busRead s a).1 h1) := by
  subst ha
  exact (withReg_of_lt s _ h1).trans (withReg_of_lt s _ h2)

theorem exec_store_of_lt {op1 op2 : Field} {s : State} {a : BusAddr} (h1 : op1.toNat < 16) (h2 : op2.toNat < 16)
    (ha : busAddrOf s.x[op1.toNat] = a) : exec (.store op1 op2) s = .next (busWrite s a s.x[op2.toNat]) := by
  subst ha
  exact (withReg_of_lt s _ h1).trans (withReg_of_lt s _ h2)

end Sys2Proof.Machine

open Sys2Proof Sys2Proof.Machine

/-- Settles O14: the one register field is checked, then the literal is the result. -/
theorem loadImmediateResult : Obligations.LoadImmediateResult := by
  rintro w op1 v s hop himm rfl rfl
  exact ⟨decode_loadImmediate hop himm, exec_loadImmediate_of_lt _ s,
    fun h => exec_of_firstBad s (firstBad_cons_of_le [] h)⟩

/-- Settles O15: with valid fields the result is what the bus answers, region by region. -/
theorem loadRegisterResult : Obligations.LoadRegisterResult := by
  rintro w op1 op2 s hop himm rfl rfl
  refine ⟨decode_loadRegister hop himm, fun f hf => exec_of_firstBad s hf, fun h1 h2 a ha => ?_⟩
  rw [exec_loadRegister_of_lt h1 h2 ha]
  refine ⟨fun hbank => ?_, fun hgap hgap' => ?_, fun p hp => ?_, fun hbeyond => ?_⟩
  · rw [busRead_of_bank s hbank]
  · rw [busRead_of_gap s hgap hgap', State.report]
  · rw [busRead_of_pin s hp]
  · rw [busRead_beyond_pins s hbeyond, State.report]

/-- Settles O16: with valid fields the next state is what the bus write leaves, region by region; in the Memory Bank
its reads tell it. -/
theorem storeResult : Obligations.StoreResult := by
  rintro w op1 op2 s hop rfl rfl
  refine ⟨decode_store hop, fun f hf => exec_of_firstBad s hf, fun h1 h2 a ha => ?_⟩
  rw [exec_store_of_lt h1 h2 ha]
  refine ⟨fun hbank => ?_, fun hgap hgap' => ?_, fun p hp => ?_, fun hbeyond => ?_⟩
  · rw [busWrite_of_bank s _ hbank]
    exact ⟨_, rfl, Memory.read_write_same _, fun b hb => Memory.read_write_other _ hb⟩
  · rw [busWrite_of_gap s _ hgap hgap', State.report]
  · rw [busWrite_of_pin s _ hp]
    rfl
  · rw [busWrite_beyond_pins s _ hbeyond, State.report]

end

section
/-! PROOFS. The arithmetic instructions (42_arithmetic): what their words decode to, their results once the register
fields are valid, the wrap modulo 2^32, and which instructions write the flags. -/

namespace Sys2Proof

/-- Opcode 3 is ADD, whatever `imm` (30_encoding R72). -/
theorem decode_add {w : Diw} (hop : w.extractLsb' 0 4 = 3#4) : decode w = .add (diwOp1 w) (diwOp2 w) (diwOp3 w) :=
  decode_of_opcode hop

/-- Opcode 4 is MUL, whatever `imm` (30_encoding R72). -/
theorem decode_mul {w : Diw} (hop : w.extractLsb' 0 4 = 4#4) : decode w = .mul (diwOp1 w) (diwOp2 w) (diwOp3 w) :=
  decode_of_opcode hop

/-- Opcode 5 is MAC, whatever `imm` (30_encoding R72). -/
theorem decode_mac {w : Diw} (hop : w.extractLsb' 0 4 = 5#4) : decode w = .mac (diwOp1 w) (diwOp2 w) (diwOp3 w) :=
  decode_of_opcode hop

/-- The destination field of LOAD, ADD, MUL and MAC, the instructions that write the flags (42_arithmetic R120). -/
def Instr.resultField : Instr → Option Field
  | .loadImmediate op1 _ => some op1
  | .loadRegister op1 _ => some op1
  | .store _ _ => none
  | .add op1 _ _ => some op1
  | .mul op1 _ _ => some op1
  | .mac op1 _ _ => some op1
  | .out _ _ => none
  | .halt => none
  | .nop => none
  | .invalid => none
  | .unassigned9 => none
  | .unassigned10to11 _ => none
  | .unassigned12to15 _ => none

/-- An opcode that names no operation writes no result. -/
theorem resultField_of_opcodeUnknown {i : Instr} (h : i.opcodeKnown = false) : i.resultField = none := by
  cases i with
  | nop | invalid | unassigned9 | unassigned10to11 | unassigned12to15 => rfl
  | _ => cases h

end Sys2Proof

namespace Sys2Proof.Machine

/-! ADD, MUL and MAC with valid register fields. -/

/-- Three valid fields: the instruction goes on with the registers they name. -/
theorem withReg_three_of_lt {f1 f2 f3 : Field} (s : State)
    (k : RegIx → RegIx → RegIx → Host.Outcome State Fault Refusal)
    (h1 : f1.toNat < 16) (h2 : f2.toNat < 16) (h3 : f3.toNat < 16) :
    (withReg f1 s fun d => withReg f2 s fun a => withReg f3 s fun b => k d a b) =
      k ⟨f1.toNat, h1⟩ ⟨f2.toNat, h2⟩ ⟨f3.toNat, h3⟩ := by
  rw [withReg_of_lt s _ h1, withReg_of_lt s _ h2, withReg_of_lt s _ h3]

section
variable {op1 op2 op3 : Field} (s : State) (h1 : op1.toNat < 16) (h2 : op2.toNat < 16) (h3 : op3.toNat < 16)

theorem exec_add_of_lt :
    exec (.add op1 op2 op3) s = .next (resultState s op1.toNat (aluAdd s.x[op2.toNat] s.x[op3.toNat]) h1) :=
  withReg_three_of_lt s _ h1 h2 h3

theorem exec_mul_of_lt :
    exec (.mul op1 op2 op3) s = .next (resultState s op1.toNat (aluMul s.x[op2.toNat] s.x[op3.toNat]) h1) :=
  withReg_three_of_lt s _ h1 h2 h3

theorem exec_mac_of_lt :
    exec (.mac op1 op2 op3) s =
      .next (resultState s op1.toNat (aluMac s.x[op1.toNat] s.x[op2.toNat] s.x[op3.toNat]) h1) :=
  withReg_three_of_lt s _ h1 h2 h3

end

/-! The wrap (42_arithmetic R122): truncating the integer result is the arithmetic of bit vectors, which does not
distinguish signed from unsigned operands. -/

theorem aluAdd_eq_unsigned (a b : Word) : aluAdd a b = BitVec.ofNat 32 (a.toNat + b.toNat) := by
  simp [aluAdd_eq, BitVec.ofNat_add]

theorem aluMul_eq_unsigned (a b : Word) : aluMul a b = BitVec.ofNat 32 (a.toNat * b.toNat) := by
  simp [aluMul_eq, BitVec.ofNat_mul]

/-- MAC is ADD of the wrapped product. -/
theorem aluMac_eq_aluAdd (acc a b : Word) : aluMac acc a b = aluAdd acc (aluMul a b) := by
  rw [aluMac_eq, aluAdd_eq, aluMul_eq]

theorem aluMac_eq_unsigned (acc a b : Word) :
    aluMac acc a b = BitVec.ofNat 32 (acc.toNat + a.toNat * b.toNat) := by
  simp [aluMac_eq, BitVec.ofNat_add, BitVec.ofNat_mul]

/-! What LOAD, ADD, MUL and MAC leave (42_arithmetic R120). -/

/-- A result is read back from its register. -/
theorem resultState_x_self (s : State) {d : Nat} (v : Word) (h : d < 16) : (resultState s d v h).x[d] = v :=
  Vector.getElem_set_self h

/-- The used register fields of a valid instruction, each with its bound. -/
theorem forall_lt_of_regsValid {i : Instr} (hv : i.regsValid = true) : i.regFields.Forall fun f => f.toNat < 16 := by
  simpa [List.forall_iff_forall_mem, Instr.regsValid] using hv

/-- With valid fields they end with a result in the register that `resultField` names. -/
theorem exec_resultState {i : Instr} {d : Field} (s : State) (hd : i.resultField = some d)
    (hv : i.regsValid = true) : ∃ u v h, exec i s = .next (resultState u d.toNat v h) := by
  have hlt := forall_lt_of_regsValid hv
  cases i
  case loadImmediate op1 op2 =>
    cases hd
    exact ⟨_, _, _, exec_loadImmediate_of_lt op2 s hlt⟩
  case loadRegister op1 op2 =>
    cases hd
    obtain ⟨h1, h2⟩ := hlt
    exact ⟨_, _, _, exec_loadRegister_of_lt h1 h2 rfl⟩
  case add op1 op2 op3 =>
    cases hd
    obtain ⟨h1, h2, h3⟩ := hlt
    exact ⟨_, _, _, exec_add_of_lt s h1 h2 h3⟩
  case mul op1 op2 op3 =>
    cases hd
    obtain ⟨h1, h2, h3⟩ := hlt
    exact ⟨_, _, _, exec_mul_of_lt s h1 h2 h3⟩
  case mac op1 op2 op3 =>
    cases hd
    obtain ⟨h1, h2, h3⟩ := hlt
    exact ⟨_, _, _, exec_mac_of_lt s h1 h2 h3⟩
  all_goals cases hd

/-- The flags are then the status of the value in the destination register. -/
theorem flags_of_result {i : Instr} {s t : State} {d : Field} (hd : i.resultField = some d)
    (hv : i.regsValid = true) (ht : exec i s = .next t) (h : d.toNat < 16) :
    t.z = decide (t.x[d.toNat] = 0) ∧ t.nf = decide (t.x[d.toNat].toInt < 0) ∧ t.c = false := by
  obtain ⟨u, v, _, e⟩ := exec_resultState s hd hv
  cases e.symm.trans ht
  rw [resultState_x_self u v h]
  exact ⟨rfl, rfl, rfl⟩

/-! What leaves the flags alone (42_arithmetic R120). -/

/-- The three flags of `t` are those of `s`. -/
abbrev FlagsSame (s t : State) : Prop := t.z = s.z ∧ t.nf = s.nf ∧ t.c = s.c

theorem FlagsSame.trans {s t u : State} : FlagsSame s t → FlagsSame t u → FlagsSame s u
  | ⟨hz, hnf, hc⟩, ⟨hz', hnf', hc'⟩ => ⟨hz'.trans hz, hnf'.trans hnf, hc'.trans hc⟩

theorem busWrite_flagsSame (s : State) (a : BusAddr) (v : Word) : FlagsSame s (busWrite s a v) := by
  obtain ⟨_, _, _, _, h⟩ := busWrite_frame s a v
  rw [h]
  exact ⟨rfl, rfl, rfl⟩

theorem gpioWrite_flagsSame (s : State) (p : Int) (v : Word) : FlagsSame s (gpioWrite s p v) := by
  rcases gpioWrite_cases s p v with ⟨_, _, h⟩ | ⟨_, h⟩ <;> rw [h] <;> exact ⟨rfl, rfl, rfl⟩

theorem beginCycle_flagsSame (s : State) : FlagsSame s (beginCycle s) := by
  obtain ⟨_, _, _, h⟩ := fetch_frame (clearPorts s)
  rw [beginCycle, h]
  exact ⟨rfl, rfl, rfl⟩

theorem endCycle_flagsSame (s : State) : FlagsSame s (endCycle s) := by
  obtain ⟨_, _, h⟩ := endCycle_frame s
  rw [h]
  exact ⟨rfl, rfl, rfl⟩

/-- What the fatal stop for a bad field and the checked instruction both leave, the outcome leaves. -/
theorem Checked.of_next {fs : List Field} {s t : State} {P : State → Prop} (h : Checked fs s P (.next t))
    (hbad : ∀ f, P (badRegisterStop s f)) : P t := by
  rcases h with ⟨f, _, e⟩ | ⟨_, u, e, hu⟩ <;> cases e
  · exact hbad f
  · exact hu

/-- An instruction without a result writes no flag, whatever its fields. -/
theorem exec_checked_flagsSame {i : Instr} (s : State) (h : i.resultField = none) :
    Checked i.regFields s (FlagsSame s) (exec i s) := by
  cases i
  case store op1 op2 => exact .withReg fun a => .withReg fun v => .nil (busWrite_flagsSame s _ _)
  case out op1 op2 => exact .withReg fun p => .withReg fun v => .nil (gpioWrite_flagsSame s _ _)
  case halt => exact .nil ⟨rfl, rfl, rfl⟩
  case nop => exact .nil ⟨rfl, rfl, rfl⟩
  case invalid => exact .nil ⟨rfl, rfl, rfl⟩
  case unassigned9 => exact .nil ⟨rfl, rfl, rfl⟩
  case unassigned10to11 opcode => exact .nil ⟨rfl, rfl, rfl⟩
  case unassigned12to15 opcode => exact .nil ⟨rfl, rfl, rfl⟩
  all_goals cases h

/-- Without a result, or stopped for a bad field, an instruction leaves the flags as they were. -/
theorem exec_flagsSame {i : Instr} {s t : State} (ht : exec i s = .next t)
    (h : i.resultField = none ∨ i.regsValid = false) : FlagsSame s t := by
  rcases h with hn | hv
  · exact (ht ▸ exec_checked_flagsSame s hn).of_next fun _ => ⟨rfl, rfl, rfl⟩
  · cases hb : firstBad i.regFields with
    | some f =>
      cases (exec_of_firstBad s hb).symm.trans ht
      exact ⟨rfl, rfl, rfl⟩
    | none => cases hv.symm.trans (firstBad_regFields_eq_none.mp hb)

/-! The carry flag (42_arithmetic R121). -/

/-- A valid instruction with a result leaves the carry false. -/
theorem carry_of_result {i : Instr} {s t : State} {d : Field} (hd : i.resultField = some d)
    (hv : i.regsValid = true) (ht : exec i s = .next t) : t.c = false := by
  obtain ⟨_, _, _, e⟩ := exec_resultState s hd hv
  cases e.symm.trans ht
  rfl

/-- Every instruction, valid or not, writes the carry false or leaves it. -/
theorem exec_carry {i : Instr} {s t : State} (ht : exec i s = .next t) : t.c = false ∨ t.c = s.c := by
  cases hd : i.resultField with
  | none =>
    obtain ⟨_, _, hc⟩ := exec_flagsSame ht (.inl hd)
    exact .inr hc
  | some d =>
    cases hv : i.regsValid with
    | true => exact .inl (carry_of_result hd hv ht)
    | false =>
      obtain ⟨_, _, hc⟩ := exec_flagsSame ht (.inr hv)
      exact .inr hc

theorem step_keeps_carry_false {s t : State} (hc : s.c = false) (ht : step s = .next t) : t.c = false := by
  obtain ⟨_, _, hb⟩ := beginCycle_flagsSame s
  cases stepped_of_step ht with
  | reset => rfl
  | idle => exact hc
  | emptyCycle =>
    obtain ⟨_, _, he⟩ := endCycle_flagsSame (beginCycle s)
    exact he.trans (hb.trans hc)
  | cycle _ _ hu =>
    rcases exec_carry hu with h | h
    · exact h
    · exact h.trans (hb.trans hc)

/-- What every step keeps holds of every state a run reaches. -/
theorem runFor_invariant {P : State → Prop} (hstep : ∀ {s t}, P s → step s = .next t → P t) {k : Nat} {s t : State}
    (hs : P s) (ht : runFor k s = .next t) : P t := by
  induction k generalizing s with
  | zero =>
    cases ht
    exact hs
  | succ k ih =>
    obtain ⟨u, hu, hr⟩ := runFor_succ_inv ht
    exact ih (hstep hs hu) hr

end Sys2Proof.Machine

open Sys2Proof Sys2Proof.Machine

/-- Settles O17: with valid fields the result is the truncated signed sum of the old values. -/
theorem addResult : Obligations.AddResult := by
  rintro w op1 op2 op3 s hop rfl rfl rfl
  exact ⟨decode_add hop, fun f hf => exec_of_firstBad s hf, exec_add_of_lt s⟩

/-- Settles O18: with valid fields the result is the truncated signed product of the old values. -/
theorem mulResult : Obligations.MulResult := by
  rintro w op1 op2 op3 s hop rfl rfl rfl
  exact ⟨decode_mul hop, fun f hf => exec_of_firstBad s hf, exec_mul_of_lt s⟩

/-- Settles O19: with valid fields the accumulator is read before the result is written. -/
theorem macResult : Obligations.MacResult := by
  rintro w op1 op2 op3 s hop rfl rfl rfl
  exact ⟨decode_mac hop, fun f hf => exec_of_firstBad s hf, exec_mac_of_lt s⟩

/-- Settles O28: an instruction writes the flags exactly when it has a result and valid fields. -/
theorem flagsFollowTheWrittenResult : Obligations.FlagsFollowTheWrittenResult := by
  refine ⟨fun i s t d h ht hv hi => ?_, fun i s t ht hi => ?_, fun s t hc h2 ht => ?_⟩
  · have hd : i.resultField = some d := by
      rcases hi with ⟨_, rfl⟩ | ⟨_, rfl⟩ | ⟨_, _, rfl⟩ | ⟨_, _, rfl⟩ | ⟨_, _, rfl⟩ <;> rfl
    exact flags_of_result hd hv ht h
  · apply exec_flagsSame ht
    rcases hi with hv | hk | rfl | ⟨_, _, rfl⟩ | ⟨_, _, rfl⟩
    · exact .inr hv
    · exact .inl (resultField_of_opcodeUnknown hk)
    all_goals exact .inl rfl
  · cases (step_of_emptySlot2 hc h2).symm.trans ht
    exact (beginCycle_flagsSame s).trans (endCycle_flagsSame _)

/-- Settles O29: a result writes the carry false, nothing else writes it, and a launch starts with it false. -/
theorem carryIsNeverSet : Obligations.CarryIsNeverSet := by
  refine ⟨fun i s t ht hv hi => ?_, fun i s t ht hc => ?_, fun prog k s hs => ?_⟩
  · rcases hi with ⟨_, _, rfl⟩ | ⟨_, _, rfl⟩ | ⟨_, _, _, rfl⟩ | ⟨_, _, _, rfl⟩ | ⟨_, _, _, rfl⟩ <;>
      exact carry_of_result rfl hv ht
  · rcases exec_carry ht with h | h
    · cases h.symm.trans hc
    · exact h.symm.trans hc
  · exact runFor_invariant (P := fun s => s.c = false) step_keeps_carry_false rfl hs

/-- Settles O30: the wrapped results are those of bit vector arithmetic, in which MAC adds the wrapped product. -/
theorem arithmeticWrapsModuloTwoPow32 : Obligations.ArithmeticWrapsModuloTwoPow32 := by
  intro op1 op2 op3 s h1 h2 h3
  rw [exec_add_of_lt s h1 h2 h3, exec_mul_of_lt s h1 h2 h3, exec_mac_of_lt s h1 h2 h3]
  exact ⟨by rw [aluAdd_eq_unsigned], by rw [aluMul_eq_unsigned], by rw [aluMac_eq_unsigned],
    by rw [aluMac_eq_aluAdd, aluAdd, aluMul, trunc32, trunc32]⟩

end

section
/-! PROOFS. The output and control instructions (43_io_and_control): what their words decode to, OUT once its register
fields are valid, the cycle in which HALT or an opcode that names no operation executes, and the fetch state that a
cycle leaves. -/

namespace Sys2Proof

/-- Opcode 6 is OUT, whatever `imm` (30_encoding R72). -/
theorem decode_out {w : Diw} (hop : w.extractLsb' 0 4 = 6#4) : decode w = .out (diwOp1 w) (diwOp2 w) :=
  decode_of_opcode hop

/-- Opcode 7 is HALT, whatever its operand fields (30_encoding R77). -/
theorem decode_halt {w : Diw} (hop : w.extractLsb' 0 4 = 7#4) : decode w = .halt := decode_of_opcode hop

theorem decode_nop {w : Diw} (hop : w.extractLsb' 0 4 = 0#4) : decode w = .nop := decode_of_opcode hop

theorem decode_invalid {w : Diw} (hop : w.extractLsb' 0 4 = 8#4) : decode w = .invalid := decode_of_opcode hop

theorem decode_unassigned9 {w : Diw} (hop : w.extractLsb' 0 4 = 9#4) : decode w = .unassigned9 := decode_of_opcode hop

theorem decode_unassigned10to11 {w : Diw} {op : Opcode} (hop : w.extractLsb' 0 4 = op) (h : op = 10#4 ∨ op = 11#4) :
    decode w = .unassigned10to11 op := by
  rcases h with rfl | rfl <;> exact decode_of_opcode hop

theorem decode_unassigned12to15 {w : Diw} {op : Opcode} (hop : w.extractLsb' 0 4 = op) (h : 12#4 ≤ op) :
    decode w = .unassigned12to15 op := by
  have hcases : ∀ o : Opcode, 12#4 ≤ o → o = 12#4 ∨ o = 13#4 ∨ o = 14#4 ∨ o = 15#4 := by decide
  rcases hcases op h with rfl | rfl | rfl | rfl <;> exact decode_of_opcode hop

/-- The rows of the opcode table from opcode 8 on. -/
theorem opcode_cases_of_ge :
    ∀ {op : Opcode}, 8#4 ≤ op → op = 8#4 ∨ op = 9#4 ∨ (op = 10#4 ∨ op = 11#4) ∨ 12#4 ≤ op := by
  decide

end Sys2Proof

namespace Sys2Proof.Machine

/-! OUT with valid register fields. -/

theorem exec_out_of_lt {op1 op2 : Field} (s : State) (h1 : op1.toNat < 16) (h2 : op2.toNat < 16) :
    exec (.out op1 op2) s = .next (gpioWrite s s.x[op1.toNat].toInt s.x[op2.toNat]) :=
  (withReg_of_lt s _ h1).trans (withReg_of_lt s _ h2)

/-! The fatal stop of an opcode that names no operation (60_exceptions R142). -/

theorem exec_of_opcodeUnknown {i : Instr} (s : State) (hk : i.opcodeKnown = false) :
    exec i s = .next (unknownOpcodeStop s i.opcode) := by
  cases i with
  | nop | invalid | unassigned9 | unassigned10to11 | unassigned12to15 => rfl
  | _ => cases hk

/-- The cycle in which it executes: the stop is recorded on top of the fetch and the shift. -/
theorem step_of_opcodeUnknown {s : State} {w : Diw} {i : Instr} (hc : Cycling s) (h2 : s.slots[2] = some w)
    (hi : decode w = i) (hk : i.opcodeKnown = false) :
    step s = .next (unknownOpcodeStop (advance (beginCycle s)) i.opcode) := by
  subst hi
  exact step_of_executed hc h2 (exec_of_opcodeUnknown _ hk)

/-! The cycle in which HALT executes, and the edges after it (43_io_and_control R131). -/

theorem exec_halt (s : State) : exec .halt s = .next (s.stop .halted) := rfl

theorem step_of_halt {s : State} {w : Diw} (hc : Cycling s) (h2 : s.slots[2] = some w) (hi : decode w = .halt) :
    step s = .next ((advance (beginCycle s)).stop .halted) :=
  step_of_executed (u := (beginCycle s).stop .halted) hc h2 (hi ▸ exec_halt (beginCycle s))

@[simp] theorem beginCycle_diag (s : State) : (beginCycle s).diag = none := by
  obtain ⟨w, p, a, h⟩ := fetch_frame (clearPorts s)
  rw [beginCycle, h]
  rfl

@[simp] theorem beginCycle_pinEvt (s : State) : (beginCycle s).pinEvt = none := by
  obtain ⟨w, p, a, h⟩ := fetch_frame (clearPorts s)
  rw [beginCycle, h]
  rfl

/-- With no diagnostic and no pin event, only the fetch port has to fall. -/
theorem clearPorts_of_no_event {s : State} (hd : s.diag = none) (he : s.pinEvt = none) :
    clearPorts s = { s with ifPort := none } := by
  simp only [clearPorts, hd, he]

/-- The cycle of a HALT emits no event, so the edges after it lower the fetch port and change nothing else. -/
theorem runFor_of_halt {s : State} {w : Diw} (k : Nat) (hc : Cycling s) (h2 : s.slots[2] = some w)
    (hi : decode w = .halt) :
    runFor (k + 2) s = .next { (advance (beginCycle s)).stop .halted with ifPort := none } := by
  obtain ⟨_, hrst⟩ := noStepChangesTheProgram _ _ (step_of_halt hc h2 hi)
  rw [runFor_succ (k + 1) (step_of_halt hc h2 hi), runFor_of_stopped k (hrst.trans hc.1) rfl]
  exact congrArg Host.Outcome.next (clearPorts_of_no_event (beginCycle_diag s) (beginCycle_pinEvt s))

/-! The timeline (40_pipeline R99). -/

theorem slotAfter_succ (prog : List Diw) (n j : Nat) : slotAfter prog (n + 1) (j + 1) = slotAfter prog n j := by
  simp only [slotAfter, Nat.add_le_add_iff_right, Nat.add_sub_add_right]

theorem slotAfter_zero (prog : List Diw) (n : Nat) : slotAfter prog n 0 = prog[n]? := if_pos (Nat.zero_le n)

/-- A cycle with slot 0 empty takes the instruction at `pc` to slot 1, if there is one, and moves `pc` on within
0..N. -/
theorem step_fetches {s t : State} (hc : Cycling s) (ht : step s = .next t) (h0 : s.slots[0] = none)
    (hpc : s.pc.toNat ≤ s.imem.length) :
    t.slots[1] = s.imem[s.pc.toNat]? ∧ t.pc.toNat = min (s.pc.toNat + 1) s.imem.length := by
  obtain ⟨t', ht', _, _, _, _, hload, hhold⟩ := everyCycleFetchesAndAdvances s hc
  cases ht'.symm.trans ht
  by_cases hN : s.pc.toNat < s.imem.length
  · obtain ⟨h1, hp, _⟩ := hload hN h0
    exact ⟨by rw [h1, List.getElem?_eq_getElem hN], by omega⟩
  · obtain ⟨h1, hp, _⟩ := hhold (.inl (Nat.not_lt.mp hN))
    exact ⟨by rw [h1, h0, List.getElem?_eq_none (Nat.not_lt.mp hN)], by rw [hp]; omega⟩

/-- A cycle takes the fetch state of `n` cycles to that of `n + 1`, whatever executes in it. -/
theorem afterCycles_succ {n : Nat} {s t : State} (hc : Cycling s) (ha : AfterCycles n s) (ht : step s = .next t) :
    AfterCycles (n + 1) t := by
  obtain ⟨hpc, h0, h1, h2, h3⟩ := ha
  obtain ⟨himem, _⟩ := noStepChangesTheProgram s t ht
  obtain ⟨hslots, _, _⟩ := shiftOf_of_step hc ht
  obtain ⟨hload, hpc'⟩ := step_fetches hc ht h0 (by omega)
  have hfetched : s.imem[s.pc.toNat]? = s.imem[n]? := by
    by_cases hn : n < s.imem.length
    · rw [hpc, Nat.min_eq_left hn.le]
    · rw [List.getElem?_eq_none (by omega), List.getElem?_eq_none (by omega)]
  rw [AfterCycles, himem]
  refine ⟨by omega, by simp [hslots], ?_, ?_, ?_⟩
  · rw [slotAfter_succ, slotAfter_zero, hload, hfetched]
  · simp [hslots, slotAfter_succ, h1]
  · simp [hslots, slotAfter_succ, h2]

/-- After `h + 2` cycles the instruction of index `h` stands in slot 2. -/
theorem slot2_of_afterCycles {h : Nat} {s : State} (ha : AfterCycles (h + 2) s) : s.slots[2] = s.imem[h]? := by
  obtain ⟨_, _, _, h2, _⟩ := ha
  rw [h2, slotAfter_succ, slotAfter_succ, slotAfter_zero]

end Sys2Proof.Machine

open Sys2Proof Sys2Proof.Machine

/-- Settles O20: with valid fields OUT is the pin write at the register's signed value, and a value outside the pins is
reported as it is, since truncating a word's signed value gives the word back. -/
theorem outResult : Obligations.OutResult := by
  rintro w op1 op2 s hop rfl rfl
  refine ⟨decode_out hop, fun f hf => exec_of_firstBad s hf, fun h1 h2 => ?_⟩
  rw [exec_out_of_lt s h1 h2]
  refine ⟨fun p hp => ?_, fun hout => ?_⟩
  · rw [hp, gpioWrite_of_pin s p]
    rfl
  · rw [gpioWrite_of_outside s _ hout, trunc32, BitVec.ofInt_toInt, State.report]

/-- Settles O21: HALT's cycle fetches and shifts as any other, and a stopped engine holds its state; the timeline places
the HALT of index `h` in slot 2 after `h + 2` cycles. -/
theorem haltResult : Obligations.HaltResult := by
  intro w s hop
  have hi := decode_halt hop
  refine ⟨hi, rfl, fun hc h2 => ⟨step_of_halt hc h2 hi, fun k => runFor_of_halt k hc h2 hi⟩, fun h hc ha hw => ?_⟩
  have ht := step_of_halt hc ((slot2_of_afterCycles ha).trans hw) hi
  obtain ⟨hpc, hslots⟩ := afterCycles_succ hc ha ht
  obtain ⟨himem, _⟩ := noStepChangesTheProgram _ _ ht
  exact ⟨_, ht, rfl, rfl, ⟨hpc, hslots⟩, by rw [hpc, himem]⟩

/-- Settles O23, by the rows of the opcode table from 8 on. -/
theorem unrecognizedOpcodeResult : Obligations.UnrecognizedOpcodeResult := by
  intro w s op hop h8
  refine ⟨?_, ?_, fun h => ⟨decode_unassigned10to11 hop h, exec_of_opcodeUnknown s rfl⟩,
    fun h => ⟨decode_unassigned12to15 hop h, exec_of_opcodeUnknown s rfl⟩, fun hc h2 => ?_⟩
  · rintro rfl
    exact ⟨decode_invalid hop, exec_of_opcodeUnknown s rfl⟩
  · rintro rfl
    exact ⟨decode_unassigned9 hop, exec_of_opcodeUnknown s rfl⟩
  · rcases opcode_cases_of_ge h8 with rfl | rfl | h | h
    · exact step_of_opcodeUnknown hc h2 (decode_invalid hop) rfl
    · exact step_of_opcodeUnknown hc h2 (decode_unassigned9 hop) rfl
    · exact step_of_opcodeUnknown hc h2 (decode_unassigned10to11 hop h) rfl
    · exact step_of_opcodeUnknown hc h2 (decode_unassigned12to15 hop h) rfl

/-- Settles O22: NOP is the opcode 0 that names no operation. -/
theorem nopResult : Obligations.NopResult := by
  intro w s hop
  exact ⟨decode_nop hop, exec_of_opcodeUnknown s rfl, fun hc h2 => step_of_opcodeUnknown hc h2 (decode_nop hop) rfl⟩

end

section
/-! PROOFS. The fatal stops over a whole clock edge (60_exceptions R141 to R143): the cycle in which one happens, the
edges after it, and which steps report UNKNOWN_OPCODE. -/

namespace Sys2Proof.Machine

/-! The cycle of a fatal stop, and the edges after it (60_exceptions R141). -/

/-- The cycle in which a bad register field stops the run: the stop is recorded on top of the fetch and the shift. -/
theorem step_of_firstBad {s : State} {w : Diw} {f : Field} (hc : Cycling s) (h2 : s.slots[2] = some w)
    (hf : firstBad (decode w).regFields = some f) :
    step s = .next (badRegisterStop (advance (beginCycle s)) f) :=
  step_of_executed hc h2 (exec_of_firstBad (beginCycle s) hf)

/-- With no pin event, only the fetch port and the diagnostic port have to fall. -/
theorem clearPorts_of_no_pinEvt {s : State} (he : s.pinEvt = none) :
    clearPorts s = { s with ifPort := none, diag := none } := by
  simp only [clearPorts, he]

/-- After a cycle that stops the run without a pin event, every further edge lowers the other ports and changes
nothing else. -/
theorem runFor_of_stopping_cycle {s t : State} (k : Nat) (hc : Cycling s) (ht : step s = .next t)
    (hr : t.running = false) (he : t.pinEvt = none) :
    runFor (k + 2) s = .next { t with ifPort := none, diag := none } := by
  obtain ⟨_, hrst⟩ := noStepChangesTheProgram s t ht
  obtain ⟨hlow, _⟩ := hc
  rw [runFor_succ (k + 1) ht, runFor_of_stopped k (hrst.trans hlow) hr, clearPorts_of_no_pinEvt he]

/-! Which steps stop for an opcode that names no operation (60_exceptions R142). -/

/-- From `s` to `t` no stop for an unknown opcode is recorded and no UNKNOWN_OPCODE is reported that was not there. -/
abbrev NoNewUnknownOpcode (s t : State) : Prop :=
  (t.stopReason = .faultUnknownOpcode → s.stopReason = .faultUnknownOpcode) ∧
    ∀ v, t.diag = some ⟨.unknownOpcode, v⟩ → s.diag = some ⟨.unknownOpcode, v⟩

/-- An instruction whose opcode names an operation stops for a bad register field, or goes on with a mild report at
most, or is HALT. -/
theorem noNewUnknownOpcode_of_exec {i : Instr} {s t : State} (hk : i.opcodeKnown = true) (ht : exec i s = .next t) :
    NoNewUnknownOpcode s t := by
  cases hb : firstBad i.regFields with
  | some f =>
    cases (exec_of_firstBad s hb).symm.trans ht
    exact ⟨nofun, nofun⟩
  | none =>
    cases performed_of_exec hb ht with
    | result _ _ hd => exact ⟨id, fun v hv => hd.fatal_kept hv (.inl rfl)⟩
    | write _ _ hd => exact ⟨id, fun v hv => hd.fatal_kept hv (.inl rfl)⟩
    | halt => exact ⟨nofun, fun _ => id⟩
    | unknown hu => cases hk.symm.trans hu

/-- The next clock edge performs a cycle with the word `w`, whose opcode names no operation, in the Execute slot. -/
abbrev ExecutesUnknown (s : State) (w : Diw) : Prop :=
  Cycling s ∧ s.slots[2] = some w ∧ (decode w).opcodeKnown = false

/-- No other step does so, and since the ports fall first it reports no UNKNOWN_OPCODE at all: reset, an idle edge and
Fetch report nothing, and the drain test stops with another reason. -/
theorem noNewUnknownOpcode_of_step {s t : State} (hno : ∀ w, ¬ExecutesUnknown s w) (ht : step s = .next t) :
    NoNewUnknownOpcode (clearPorts s) t := by
  cases stepped_of_step ht with
  | reset => exact ⟨nofun, nofun⟩
  | idle => exact ⟨id, nofun⟩
  | emptyCycle hc h2 =>
    obtain ⟨hd, _⟩ := no_event_of_emptySlot2 hc h2 ht
    refine ⟨fun h => ?_, fun v hv => hd.symm.trans hv⟩
    rcases endCycle_run (beginCycle s) with ⟨_, hs⟩ | ⟨_, hs⟩
    · cases hs.symm.trans h
    · exact (beginCycle_stopReason s).symm.trans (hs.symm.trans h)
  | cycle hc h2 hu =>
    have hk : (decode _).opcodeKnown = true := (Bool.not_eq_false _).mp fun hk => hno _ ⟨hc, h2, hk⟩
    obtain ⟨hs, hd⟩ := noNewUnknownOpcode_of_exec hk hu
    exact ⟨fun h => (beginCycle_stopReason s).symm.trans (hs h), fun v hv => (beginCycle_diag s).symm.trans (hd v hv)⟩

end Sys2Proof.Machine

open Sys2Proof Sys2Proof.Machine

/-- Settles O26: at Execute by what the instruction performs, over a clock edge by whether it executes such an
opcode. -/
theorem unknownOpcodeStops : Obligations.UnknownOpcodeStops := by
  refine ⟨fun i s => ⟨fun hk => ⟨exec_of_opcodeUnknown s hk, rfl, rfl, rfl⟩,
    fun hk t ht => noNewUnknownOpcode_of_exec hk ht⟩, fun s t ht => ?_⟩
  by_cases h : ∃ w, ExecutesUnknown s w
  · obtain ⟨w, hc, h2, hk⟩ := h
    cases (step_of_opcodeUnknown hc h2 rfl hk).symm.trans ht
    refine ⟨fun v => ⟨fun hv => ?_, fun ⟨_, w', h2', _, hv⟩ => ?_⟩, fun _ => .inr ⟨hc, w, h2, hk⟩⟩
    · cases hv
      exact ⟨hc, w, h2, hk, rfl⟩
    · cases h2.symm.trans h2'
      rw [hv]
      rfl
  · have hno : ∀ w, ¬ExecutesUnknown s w := fun w hw => h ⟨w, hw⟩
    obtain ⟨hs, hd⟩ := noNewUnknownOpcode_of_step hno ht
    exact ⟨fun v => ⟨fun hv => (nomatch hd v hv), fun ⟨hc, w, h2, hk, _⟩ => absurd ⟨hc, h2, hk⟩ (hno w)⟩,
      fun hf => .inl (hs hf)⟩

/-- Settles O27: either stop is recorded on top of the fetch and the shift, emits no pin event, and a stopped engine
holds its state. -/
theorem fatalStopFinishesItsCycle : Obligations.FatalStopFinishesItsCycle := by
  intro s w hc h2
  refine ⟨fun f hf => ?_, fun hk => ?_⟩
  · have ht := step_of_firstBad hc h2 hf
    exact ⟨ht, fun k => runFor_of_stopping_cycle k hc ht rfl (beginCycle_pinEvt s)⟩
  · have ht := step_of_opcodeUnknown hc h2 rfl hk
    exact ⟨ht, fun k => runFor_of_stopping_cycle k hc ht rfl (beginCycle_pinEvt s)⟩

end

section
/-! PROOFS. What an edge with `rst` high leaves (70_reset R170, R172). -/

namespace Sys2Proof.Machine

/-! Every cell of a bank and every slot after reset. -/

theorem reset_x_get (r : RegIx) : State.reset.x[r] = 0 := by simp

theorem reset_slots_get (j : Fin 4) : State.reset.slots[j] = none := by simp

theorem reset_gpio_get (p : PinIx) : State.reset.gpio[p] = 0 := by simp

/-- The reset Memory Bank lists no word, so every address reads as the reset value. -/
theorem reset_mem_read (a : Nat) : State.reset.mem.read a = 0 := rfl

/-- The program and the level of `rst` are all that a reset edge leaves standing. -/
theorem resetEdge_unloaded (s : State) : { resetEdge s with imem := [], rst := false } = State.reset := rfl

end Sys2Proof.Machine

open Sys2Proof Sys2Proof.Machine

/-- Settles O8: the edge leaves State.reset with the program and the level of `rst` as they stood, and State.reset holds
R170's values item by item. -/
theorem resetEdgeGivesResetState : Obligations.ResetEdgeGivesResetState := by
  intro s hrst
  exact ⟨resetEdge s, step_of_reset hrst,
    reset_x_get, State.reset_z, State.reset_nf, State.reset_c, State.reset_pc,
    reset_slots_get, State.reset_running, State.reset_stopReason,
    reset_mem_read, reset_gpio_get,
    rfl, rfl, rfl,
    rfl, rfl, resetEdge_unloaded s⟩

end

section
/-! PROOFS. The decoder against the encoder and against the opcode table (30_encoding R71, R77, R81): decoding is
`ofFields` of the word's fields, and the row of the result is a matter of the word's low five bits. -/

namespace Sys2Proof

/-- A packed record decodes to the instruction that its fields stand for. -/
theorem decode_packDiw (op : Opcode) (imm : Bool) (a b c : Field) :
    decode (packDiw op imm a b c) = ofFields op imm a b c := by
  simp [decode]

/-! What `ofFields` answers, whatever the operand fields (30_encoding R71). -/

theorem wellFormed_ofFields (op : Opcode) (imm : Bool) (a b c : Field) : (ofFields op imm a b c).wellFormed = true := by
  have hzero : ∀ (op : Opcode) (imm : Bool), (ofFields op imm 0 0 0).wellFormed = true := by decide
  rw [← hzero op imm]
  unfold ofFields
  split
  case h_2 => cases imm <;> rfl
  all_goals rfl

theorem opcode_ofFields (op : Opcode) (imm : Bool) (a b c : Field) : (ofFields op imm a b c).opcode = op := by
  unfold ofFields
  split
  case h_2 => cases imm <;> rfl
  all_goals rfl

/-- The operand fields have no part in the row. -/
theorem row_ofFields (op : Opcode) (imm : Bool) (a b c : Field) :
    (ofFields op imm a b c).row = (ofFields op imm 0 0 0).row := by
  unfold ofFields
  split
  case h_2 => cases imm <;> rfl
  all_goals rfl

/-! The low five bits of a word. -/

/-- The row of an instruction whose word has the low five bits `v`: the opcode below the `imm` bit. -/
def rowOfLow (v : BitVec 5) : Nat := (ofFields (v.extractLsb' 0 4) (v.getLsbD 4) 0 0 0).row

theorem row_decode (w : Diw) : (decode w).row = rowOfLow (w.extractLsb' 0 5) := by
  have hop : (w.extractLsb' 0 5).extractLsb' 0 4 = diwOpcode w := by
    apply BitVec.eq_of_getLsbD_eq
    intro k hk
    simp [diwOpcode, hk]
  have himm : (w.extractLsb' 0 5).getLsbD 4 = diwImm w := by simp [diwImm]
  rw [decode, row_ofFields, rowOfLow, hop, himm]

/-- A mask within bits 4..0 sees the low five bits alone. -/
theorem and_low (w : Diw) (m : BitVec 5) : w &&& m.setWidth 128 = (w.extractLsb' 0 5 &&& m).setWidth 128 := by
  apply BitVec.eq_of_getLsbD_eq
  intro k hk
  by_cases h5 : k < 5
  · simp [h5, hk]
  · simp [BitVec.getLsbD_of_ge m k (by omega)]

/-- The masks of the opcode table are within bits 4..0. -/
theorem mask_within_low : ∀ {r : String × Diw × Diw}, r ∈ opcodeRows → (r.2.2.setWidth 5).setWidth 128 = r.2.2 := by
  decide

/-- The table, checked on every value of the low five bits. -/
theorem row_matches_low : ∀ (v : BitVec 5) (k : Fin 13),
    (v &&& opcodeRows[k].2.2.setWidth 5).setWidth 128 = opcodeRows[k].2.1 ↔ rowOfLow v = k := by
  decide

/-- A word matches a row of the table exactly when its low five bits have that row. -/
theorem row_matches {w : Diw} {k : Nat} {r : String × Diw × Diw} (hr : opcodeRows[k]? = some r) :
    w &&& r.2.2 = r.2.1 ↔ rowOfLow (w.extractLsb' 0 5) = k := by
  obtain ⟨hk, rfl⟩ := List.getElem?_eq_some_iff.mp hr
  rw [← mask_within_low (List.getElem_mem hk), and_low]
  exact row_matches_low _ ⟨k, hk⟩

end Sys2Proof

open Sys2Proof Sys2Proof.Machine

/-- Settles O1: the fields of a packed word are read back as they were packed, and `ofFields` gives each opcode its
constructor; the two constructors that carry an opcode carry one of theirs. -/
theorem decodeOfEncode : Obligations.DecodeOfEncode := by
  intro i hi
  cases i with
  | unassigned10to11 op =>
    have hop : op = 10 ∨ op = 11 := by simpa [Instr.wellFormed] using hi
    rcases hop with rfl | rfl <;> exact decode_packDiw _ _ _ _ _
  | unassigned12to15 op =>
    have hop : ((op = 12 ∨ op = 13) ∨ op = 14) ∨ op = 15 := by simpa [Instr.wellFormed] using hi
    rcases hop with ((rfl | rfl) | rfl) | rfl <;> exact decode_packDiw _ _ _ _ _
  | _ => exact decode_packDiw _ _ _ _ _

/-- Settles O2: `ofFields` answers a well-formed instruction of the word's opcode, and both the row and the match are
decided by the low five bits. -/
theorem decodeFollowsOpcodeTable : Obligations.DecodeFollowsOpcodeTable := by
  intro w
  refine ⟨wellFormed_ofFields _ _ _ _ _, opcode_ofFields _ _ _ _ _, fun k r hr => ?_⟩
  rw [row_decode, row_matches hr]

/-- Settles O3: the row is a function of the low five bits. -/
theorem classFromLowFiveBits : Obligations.ClassFromLowFiveBits := by
  intro w w' h
  rw [row_decode, row_decode, h]

/-- Settles O4: each word by the opcode and fields written in it. -/
theorem decodeOfSpecWords : Obligations.DecodeOfSpecWords :=
  ⟨rfl, rfl, rfl, rfl, rfl, rfl, rfl, rfl, rfl, rfl, rfl, rfl⟩

end

section
/-! PROOFS. Single operations and single cycles: the frames of the instructions, the events of a cycle, the pins read
back, the drain test, and the steps that are refused. -/

namespace Sys2Proof.Machine

/-! The register that a field names (30_encoding R73). -/

theorem lt_of_regOf {f : Field} {r : RegIx} (h : regOf f = some r) : f.toNat < 16 := by
  rw [← Nat.not_le]
  intro hle
  cases (regOf_of_le hle).symm.trans h

theorem firstBad_two_of_regOf {f1 f2 : Field} {r1 r2 : RegIx} (h1 : regOf f1 = some r1) (h2 : regOf f2 = some r2) :
    firstBad [f1, f2] = none := by
  rw [firstBad_cons_of_lt _ (lt_of_regOf h1), firstBad_cons_of_lt _ (lt_of_regOf h2), firstBad_nil]

/-- Everything the check of two fields can do: the first bad one stops the run, or both name a register. -/
theorem withReg_two_cases (f1 f2 : Field) (s : State) (k : RegIx → RegIx → Host.Outcome State Fault Refusal) :
    (∃ f, firstBad [f1, f2] = some f ∧
      (withReg f1 s fun a => withReg f2 s fun b => k a b) = .next (badRegisterStop s f)) ∨
    (∃ a b, regOf f1 = some a ∧ regOf f2 = some b ∧ (withReg f1 s fun a => withReg f2 s fun b => k a b) = k a b) := by
  rcases withReg_cases f1 s (fun a => withReg f2 s fun b => k a b) with ⟨h1, e1⟩ | ⟨h1, e1⟩
  · rcases withReg_cases f2 s (fun b => k ⟨f1.toNat, h1⟩ b) with ⟨h2, e2⟩ | ⟨h2, e2⟩
    · exact .inr ⟨_, _, regOf_of_lt h1, regOf_of_lt h2, e1.trans e2⟩
    · exact .inl ⟨f2, by rw [firstBad_cons_of_lt _ h1, firstBad_cons_of_le _ h2], e1.trans e2⟩
  · exact .inl ⟨f1, firstBad_cons_of_le _ h1, e1⟩

/-! The register writers. -/

/-- With valid fields LOAD, ADD, MUL and MAC write a result, after a report at most; only a LOAD from the bus
reports. -/
theorem exec_result_frame {i : Instr} {d : Field} (s : State) (hd : i.resultField = some d)
    (hv : i.regsValid = true) :
    ∃ dg v h, exec i s = .next (resultState { s with diag := dg } d.toNat v h) ∧
      ((∀ a, i ≠ .loadRegister d a) → dg = s.diag) := by
  have hlt := forall_lt_of_regsValid hv
  cases i
  case loadImmediate op1 op2 =>
    cases hd
    exact ⟨s.diag, _, _, exec_loadImmediate_of_lt op2 s hlt, fun _ => rfl⟩
  case loadRegister op1 op2 =>
    cases hd
    obtain ⟨h1, h2⟩ := hlt
    obtain ⟨dg, hdg⟩ := busRead_frame s (busAddrOf s.x[op2.toNat])
    have e := exec_loadRegister_of_lt (s := s) h1 h2 rfl
    rw [hdg] at e
    exact ⟨dg, _, h1, e, fun hno => absurd rfl (hno op2)⟩
  case add op1 op2 op3 =>
    cases hd
    obtain ⟨h1, h2, h3⟩ := hlt
    exact ⟨s.diag, _, _, exec_add_of_lt s h1 h2 h3, fun _ => rfl⟩
  case mul op1 op2 op3 =>
    cases hd
    obtain ⟨h1, h2, h3⟩ := hlt
    exact ⟨s.diag, _, _, exec_mul_of_lt s h1 h2 h3, fun _ => rfl⟩
  case mac op1 op2 op3 =>
    cases hd
    obtain ⟨h1, h2, h3⟩ := hlt
    exact ⟨s.diag, _, _, exec_mac_of_lt s h1 h2 h3, fun _ => rfl⟩
  all_goals cases hd

theorem resultState_x_other (s : State) {d : Nat} (v : Word) (h : d < 16) (r : Fin 16) (hr : r.val ≠ d) :
    (resultState s d v h).x[r] = s.x[r] :=
  Vector.getElem_set_ne h r.isLt hr.symm

/-! Bus and pin writes. -/

/-- A bus write at `a` reaches at most the word at `a`, if `a` is an address of the bank, and the pin at `a`. -/
theorem busWrite_mem_read_other (s : State) {a : BusAddr} (v : Word) {b : Nat} (h : b ≠ a.toNat ∨ 1024 ≤ a.toNat) :
    (busWrite s a v).mem.read b = s.mem.read b := by
  rcases busWrite_cases s a v with ⟨hbank, e⟩ | ⟨_, _, e⟩ | ⟨_, _, e⟩ | ⟨_, e⟩ <;> rw [e]
  · exact Memory.read_write_other v (h.resolve_right (Nat.not_le.mpr hbank))
  all_goals rfl

theorem writePin_gpio_other (s : State) {p q : PinIx} (v : Word) (h : q ≠ p) :
    (s.writePin p v).gpio[q] = s.gpio[q] :=
  Vector.getElem_set_ne p.isLt q.isLt fun e => h (Fin.ext e.symm)

theorem busWrite_gpio_other (s : State) {a : BusAddr} (v : Word) {p : Fin 16} (h : 0x8000 + p.val ≠ a.toNat) :
    (busWrite s a v).gpio[p] = s.gpio[p] := by
  rcases busWrite_cases s a v with ⟨_, e⟩ | ⟨_, _, e⟩ | ⟨q, hq, e⟩ | ⟨_, e⟩ <;> rw [e]
  case inr.inr.inl =>
    have hpq : p ≠ q := fun hpq => h (hpq ▸ hq.symm)
    exact writePin_gpio_other s v hpq
  all_goals rfl

/-- From `s` to `t` the registers, flags, engine and run are as before: only the memory, the pins and the event ports
may differ. -/
abbrev DeviceFrame (s t : State) : Prop :=
  t.x = s.x ∧ FlagsSame s t ∧ EngineSame s t ∧ t.running = s.running ∧ t.stopReason = s.stopReason

theorem busWrite_deviceFrame (s : State) (a : BusAddr) (v : Word) : DeviceFrame s (busWrite s a v) := by
  obtain ⟨_, _, _, _, e⟩ := busWrite_frame s a v
  rw [e]
  exact ⟨rfl, ⟨rfl, rfl, rfl⟩, ⟨rfl, rfl, rfl, rfl, rfl⟩, rfl, rfl⟩

theorem gpioWrite_deviceFrame (s : State) (pin : Int) (v : Word) :
    DeviceFrame s (gpioWrite s pin v) ∧ (gpioWrite s pin v).mem = s.mem := by
  rcases gpioWrite_cases s pin v with ⟨_, _, e⟩ | ⟨_, e⟩ <;> rw [e] <;>
    exact ⟨⟨rfl, ⟨rfl, rfl, rfl⟩, ⟨rfl, rfl, rfl, rfl, rfl⟩, rfl, rfl⟩, rfl⟩

theorem gpioWrite_gpio_other (s : State) {pin : Int} (v : Word) {q : Fin 16} (h : (q.val : Int) ≠ pin) :
    (gpioWrite s pin v).gpio[q] = s.gpio[q] := by
  rcases gpioWrite_cases s pin v with ⟨p, hp, e⟩ | ⟨_, e⟩ <;> rw [e]
  · have hqp : q ≠ p := fun hqp => h (hqp ▸ hp.symm)
    exact writePin_gpio_other s v hqp
  · rfl

/-- Everything STORE can do: stop at the first bad field, or write to the bus. -/
theorem exec_store_cases {op1 op2 : Field} {s t : State} (ht : exec (.store op1 op2) s = .next t) :
    (∃ f, firstBad [op1, op2] = some f ∧ t = badRegisterStop s f) ∨
    (∃ r v, regOf op1 = some r ∧ regOf op2 = some v ∧ t = busWrite s (busAddrOf (s.readReg r)) (s.readReg v)) := by
  rcases withReg_two_cases op1 op2 s (fun r v => .next (busWrite s (busAddrOf (s.readReg r)) (s.readReg v))) with
    ⟨f, hf, e⟩ | ⟨r, v, hr, hv, e⟩
  · exact .inl ⟨f, hf, Host.Outcome.next.inj (ht.symm.trans e)⟩
  · exact .inr ⟨r, v, hr, hv, Host.Outcome.next.inj (ht.symm.trans e)⟩

/-- Everything OUT can do: stop at the first bad field, or write a pin. -/
theorem exec_out_cases {op1 op2 : Field} {s t : State} (ht : exec (.out op1 op2) s = .next t) :
    (∃ f, firstBad [op1, op2] = some f ∧ t = badRegisterStop s f) ∨
    (∃ r v, regOf op1 = some r ∧ regOf op2 = some v ∧ t = gpioWrite s (pinIndexOf (s.readReg r)) (s.readReg v)) := by
  rcases withReg_two_cases op1 op2 s (fun r v => .next (gpioWrite s (pinIndexOf (s.readReg r)) (s.readReg v))) with
    ⟨f, hf, e⟩ | ⟨r, v, hr, hv, e⟩
  · exact .inl ⟨f, hf, Host.Outcome.next.inj (ht.symm.trans e)⟩
  · exact .inr ⟨r, v, hr, hv, Host.Outcome.next.inj (ht.symm.trans e)⟩

/-- Two fields that name a register are valid. -/
theorem regsValid_of_regOf {i : Instr} {f1 f2 : Field} {r1 r2 : RegIx} (hi : i.regFields = [f1, f2])
    (h1 : regOf f1 = some r1) (h2 : regOf f2 = some r2) : i.regsValid = true := by
  rw [← firstBad_regFields_eq_none, hi, firstBad_two_of_regOf h1 h2]

/-! The pins read by a signed index (20_memory R59). -/

theorem gpioRead_of_pin (s : State) (p : PinIx) : gpioRead s (p.val : Int) = (s.gpio[p], s) := by
  simp only [gpioRead, pinOf_eq_some.mpr rfl]

theorem gpioRead_of_outside (s : State) {pin : Int} (h : pin < 0 ∨ 16 ≤ pin) :
    gpioRead s pin = (0, s.report .gpioReadRange (trunc32 pin)) := by
  have hp : ¬(0 ≤ pin ∧ pin < 16) := by omega
  simp only [gpioRead, pinOf_of_not hp]

theorem pinEvent_writePin_gpio_same (s : State) (p : PinIx) (v : Word) :
    ((s.writePin p v).pinEvent p v).gpio[p] = v :=
  Vector.getElem_set_self p.isLt

/-- The bus address of a pin does not wrap. -/
theorem pinAddr_toNat (p : Fin 16) : (BitVec.ofNat 16 (0x8000 + p.val)).toNat = 0x8000 + p.val := by
  have hp := p.isLt
  rw [BitVec.toNat_ofNat]
  omega

/-! The events of a cycle (60_exceptions R146). -/

/-- From `s` to `t`, executing `i`, a pin change is reported by STORE and OUT alone, and then no diagnostic. -/
abbrev OneEvent (s : State) (i : Instr) (t : State) : Prop :=
  t.pinEvt = s.pinEvt ∨ t.diag = s.diag ∧ ∃ op1 op2, i = .store op1 op2 ∨ i = .out op1 op2

theorem busWrite_oneEvent (s : State) (a : BusAddr) (v : Word) :
    (busWrite s a v).pinEvt = s.pinEvt ∨ (busWrite s a v).diag = s.diag := by
  rcases busWrite_cases s a v with ⟨_, e⟩ | ⟨_, _, e⟩ | ⟨_, _, e⟩ | ⟨_, e⟩ <;> rw [e]
  case inr.inr.inl => exact .inr rfl
  all_goals exact .inl rfl

theorem gpioWrite_oneEvent (s : State) (p : Int) (v : Word) :
    (gpioWrite s p v).pinEvt = s.pinEvt ∨ (gpioWrite s p v).diag = s.diag := by
  rcases gpioWrite_cases s p v with ⟨_, _, e⟩ | ⟨_, e⟩ <;> rw [e]
  · exact .inr rfl
  · exact .inl rfl

theorem busRead_pinEvt (s : State) (a : BusAddr) : (busRead s a).2.pinEvt = s.pinEvt := by
  obtain ⟨_, h⟩ := busRead_frame s a
  rw [h]

theorem exec_checked_oneEvent (i : Instr) (s : State) : Checked i.regFields s (OneEvent s i) (exec i s) := by
  cases i
  case loadImmediate op1 op2 => exact .withReg fun d => .nil (.inl rfl)
  case loadRegister op1 op2 => exact .withReg fun d => .withReg fun a => .nil (.inl (busRead_pinEvt s _))
  case store op1 op2 =>
    exact .withReg fun a => .withReg fun v =>
      .nil ((busWrite_oneEvent s _ _).imp_right fun hd => ⟨hd, op1, op2, .inl rfl⟩)
  case add op1 op2 op3 => exact .withReg fun d => .withReg fun a => .withReg fun b => .nil (.inl rfl)
  case mul op1 op2 op3 => exact .withReg fun d => .withReg fun a => .withReg fun b => .nil (.inl rfl)
  case mac op1 op2 op3 => exact .withReg fun d => .withReg fun a => .withReg fun b => .nil (.inl rfl)
  case out op1 op2 =>
    exact .withReg fun p => .withReg fun v =>
      .nil ((gpioWrite_oneEvent s _ _).imp_right fun hd => ⟨hd, op1, op2, .inr rfl⟩)
  case halt => exact .nil (.inl rfl)
  case nop => exact .nil (.inl rfl)
  case invalid => exact .nil (.inl rfl)
  case unassigned9 => exact .nil (.inl rfl)
  case unassigned10to11 opcode => exact .nil (.inl rfl)
  case unassigned12to15 opcode => exact .nil (.inl rfl)

theorem exec_oneEvent {i : Instr} {s t : State} (ht : exec i s = .next t) : OneEvent s i t :=
  (ht ▸ exec_checked_oneEvent i s).of_next fun _ => .inl rfl

/-! The drain test in a cycle (40_pipeline R97). -/

theorem drained_iff (s : State) : drained s = true ↔
    s.imem.length ≤ s.pc.toNat ∧ s.slots[1] = none ∧ s.slots[2] = none ∧ s.slots[3] = none := by
  simp [drained, and_assoc]

theorem Cycling.running {s : State} : Cycling s → s.running = true
  | ⟨_, hr, _⟩ => hr

/-- After Fetch and Advance nothing is left exactly when nothing was left before: what Fetch could load would fill
slot 0. -/
theorem drained_advance_beginCycle (s : State) :
    drained (advance (beginCycle s)) = true ↔
      s.imem.length ≤ s.pc.toNat ∧ s.slots[0] = none ∧ s.slots[1] = none ∧ s.slots[2] = none := by
  rw [drained_iff]
  by_cases h : s.slots[0] = none ∧ s.pc.toNat < s.imem.length
  · obtain ⟨h0, hN⟩ := h
    rw [beginCycle_loads h0 hN]
    simp [Nat.not_le.mpr hN]
  · rw [beginCycle_holds h]
    simp

/-- An empty engine drains in a cycle. -/
theorem step_of_drained {s : State} (hc : Cycling s) (hN : s.imem.length ≤ s.pc.toNat) (h0 : s.slots[0] = none)
    (h1 : s.slots[1] = none) (h2 : s.slots[2] = none) :
    step s = .next ((advance (beginCycle s)).stop .drained) := by
  have hr := (beginCycle_running s).trans hc.running
  have hd := (drained_advance_beginCycle s).mpr ⟨hN, h0, h1, h2⟩
  rw [step_of_emptySlot2 hc h2, endCycle, drainTest_of_drained (s := advance _) hr hd]

/-- Any other cycle with slot 2 empty only fetches and shifts. -/
theorem step_of_not_drained {s : State} (hc : Cycling s) (h2 : s.slots[2] = none)
    (h : ¬(s.imem.length ≤ s.pc.toNat ∧ s.slots[0] = none ∧ s.slots[1] = none)) :
    step s = .next (advance (beginCycle s)) := by
  have hd : drained (advance (beginCycle s)) = false := by
    rw [← Bool.not_eq_true, drained_advance_beginCycle]
    exact fun ⟨hN, h0, h1, _⟩ => h ⟨hN, h0, h1⟩
  rw [step_of_emptySlot2 hc h2, endCycle, drainTest_of_not_drained hd]

/-! The steps that are not refused (70_reset R174). -/

theorem step_next_of_not_tooLong {s : State} (h : ¬(s.rst = false ∧ s.running = true ∧ 1024 < s.imem.length)) :
    ∃ t, step s = .next t := by
  by_cases hrst : s.rst = true
  · exact ⟨_, step_of_reset hrst⟩
  rw [Bool.not_eq_true] at hrst
  by_cases hr : s.running = true
  · exact step_next_of_cycling ⟨hrst, hr, Nat.not_lt.mp fun hN => h ⟨hrst, hr, hN⟩⟩
  · exact ⟨_, step_of_idle hrst (Bool.not_eq_true _ ▸ hr)⟩

end Sys2Proof.Machine

open Sys2Proof Sys2Proof.Machine

/-- Settles O10: in a cycle with slot 2 empty the drain test sees `pc` and slots 0 and 1 as they stood before. -/
theorem drainTestStopsAnEmptyEngine : Obligations.DrainTestStopsAnEmptyEngine := by
  intro s hc h2
  by_cases hd : s.imem.length ≤ s.pc.toNat ∧ s.slots[0] = none ∧ s.slots[1] = none
  · obtain ⟨hN, h0, h1⟩ := hd
    refine ⟨_, step_of_drained hc hN h0 h1 h2, fun _ _ _ => ⟨rfl, rfl⟩, ?_⟩
    rintro (hlt | hne | hne)
    · exact absurd hN (Nat.not_le.mpr hlt)
    · exact absurd h0 hne
    · exact absurd h1 hne
  · exact ⟨_, step_of_not_drained hc h2 hd, fun hN h0 h1 => absurd ⟨hN, h0, h1⟩ hd,
      fun _ => ⟨(beginCycle_running s).trans hc.running, beginCycle_stopReason s⟩⟩

/-- Settles O13: every other kind of edge has a next state. -/
theorem stepIsRefusedOnlyForOverlongProgram : Obligations.StepIsRefusedOnlyForOverlongProgram := by
  intro s
  refine ⟨⟨fun ⟨hrst, hr, hN⟩ => step_of_tooLong hrst hr hN, fun href => ?_⟩, step_next_of_not_tooLong⟩
  by_contra h
  obtain ⟨t, ht⟩ := step_next_of_not_tooLong h
  cases ht.symm.trans href

/-- Settles O24: the check of the fields and what a checked instruction performs both answer a next state. -/
theorem everyInstructionCompletes : Obligations.EveryInstructionCompletes := exec_next

/-- Settles O36: a signed index in range and the pin's bus address name the same pin. -/
theorem gpioRoundTrip : Obligations.GpioRoundTrip := by
  intro s pin v
  refine ⟨?_, gpioRead_of_outside s⟩
  rintro p rfl
  rw [gpioWrite_of_pin s p]
  refine ⟨?_, ?_, fun q hq => writePin_gpio_other s v hq⟩
  · rw [gpioRead_of_pin _ p, pinEvent_writePin_gpio_same]
  · rw [busRead_of_pin _ (pinAddr_toNat p), pinEvent_writePin_gpio_same]

/-- Settles O37: the ports fall before Execute, and what executes raises one of them at most. -/
theorem atMostOneEventPerCycle : Obligations.AtMostOneEventPerCycle := by
  intro s t hc ht
  cases h2 : s.slots[2] with
  | none =>
    obtain ⟨hd, he⟩ := no_event_of_emptySlot2 hc h2 ht
    exact ⟨.inl hd, absurd he⟩
  | some w =>
    obtain ⟨u, hu⟩ := exec_next (decode w) (beginCycle s)
    cases (step_of_executed hc h2 hu).symm.trans ht
    rcases exec_oneEvent hu with he | ⟨hd, op1, op2, hi⟩
    · have hnone : u.pinEvt = none := he.trans (beginCycle_pinEvt s)
      exact ⟨.inr hnone, absurd hnone⟩
    · exact ⟨.inl (hd.trans (beginCycle_diag s)), fun _ => ⟨w, op1, op2, rfl, hi⟩⟩

/-- Settles O38: with valid fields the next state is a result after a report at most, and a bad field only stops. -/
theorem frameOfRegisterWriters : Obligations.FrameOfRegisterWriters := by
  intro i d s t ht hi
  have hd : i.resultField = some d := by
    rcases hi with ⟨_, rfl⟩ | ⟨_, rfl⟩ | ⟨_, _, rfl⟩ | ⟨_, _, rfl⟩ | ⟨_, _, rfl⟩ <;> rfl
  cases hv : i.regsValid with
  | true =>
    obtain ⟨dg, v, h, e, hdg⟩ := exec_result_frame s hd hv
    cases e.symm.trans ht
    exact ⟨resultState_x_other _ v h, fun _ => rfl, rfl, rfl, ⟨rfl, rfl, rfl, rfl, rfl⟩, fun _ => ⟨rfl, rfl⟩,
      fun _ => hdg, nofun⟩
  | false =>
    cases hb : firstBad i.regFields with
    | some f =>
      cases (exec_of_firstBad s hb).symm.trans ht
      exact ⟨fun _ _ => rfl, fun _ => rfl, rfl, rfl, ⟨rfl, rfl, rfl, rfl, rfl⟩, nofun, nofun,
        fun _ => ⟨rfl, rfl, rfl, rfl⟩⟩
    | none => cases hv.symm.trans (firstBad_regFields_eq_none.mp hb)

/-- Settles O39: with valid fields STORE is the bus write, and a bad field only stops. -/
theorem frameOfStore : Obligations.FrameOfStore := by
  intro op1 op2 s t ht
  rcases exec_store_cases ht with ⟨f, hf, rfl⟩ | ⟨r, v, hr, hv, rfl⟩
  · refine ⟨rfl, rfl, rfl, rfl, ⟨rfl, rfl, rfl, rfl, rfl⟩, fun _ => ⟨rfl, rfl, rfl⟩, fun r v a hr hv _ => ?_⟩
    cases hf.symm.trans (firstBad_two_of_regOf hr hv)
  · obtain ⟨hx, ⟨hz, hnf, hc⟩, heng, hrun, hstop⟩ := busWrite_deviceFrame s (busAddrOf (s.readReg r)) (s.readReg v)
    refine ⟨hx, hz, hnf, hc, heng, fun hbad => ?_, ?_⟩
    · cases hbad.symm.trans (regsValid_of_regOf rfl hr hv)
    · rintro r' _ a hr' _ ha
      cases hr.symm.trans hr'
      rw [ha] at hrun hstop ⊢
      refine ⟨hrun, hstop, fun b hb => busWrite_mem_read_other s _ (.inl hb),
        fun hbank b => busWrite_mem_read_other s _ (.inr hbank), fun p hp => busWrite_gpio_other s _ hp,
        fun hbank => ?_⟩
      rw [busWrite_of_bank s _ hbank]
      exact ⟨rfl, rfl⟩

/-- Settles O40: with valid fields OUT is the pin write, and a bad field only stops. -/
theorem frameOfOut : Obligations.FrameOfOut := by
  intro op1 op2 s t ht
  rcases exec_out_cases ht with ⟨f, hf, rfl⟩ | ⟨r, v, hr, hv, rfl⟩
  · refine ⟨rfl, rfl, rfl, rfl, ⟨rfl, rfl, rfl, rfl, rfl⟩, fun _ => rfl, fun _ => ⟨rfl, rfl⟩,
      fun r v p hr hv _ => ?_⟩
    cases hf.symm.trans (firstBad_two_of_regOf hr hv)
  · obtain ⟨⟨hx, ⟨hz, hnf, hc⟩, heng, hrun, hstop⟩, hmem⟩ :=
      gpioWrite_deviceFrame s (pinIndexOf (s.readReg r)) (s.readReg v)
    refine ⟨hx, hz, hnf, hc, heng, fun b => by rw [hmem], fun hbad => ?_, ?_⟩
    · cases hbad.symm.trans (regsValid_of_regOf rfl hr hv)
    · rintro r' _ p hr' _ hp
      cases hr.symm.trans hr'
      exact ⟨hrun, hstop, fun q hq => gpioWrite_gpio_other s _ (hp ▸ hq)⟩

/-- Settles O41: HALT is the stop alone, an opcode that names no operation the stop and its report. -/
theorem frameOfStops : Obligations.FrameOfStops := by
  intro i s t ht hi
  rcases hi with rfl | hk
  · cases ht
    exact ⟨⟨rfl, rfl, rfl, rfl, rfl, rfl⟩, fun _ => rfl, ⟨rfl, rfl, rfl, rfl, rfl⟩, rfl, fun _ => rfl, rfl⟩
  · cases (exec_of_opcodeUnknown s hk).symm.trans ht
    refine ⟨⟨rfl, rfl, rfl, rfl, rfl, rfl⟩, fun _ => rfl, ⟨rfl, rfl, rfl, rfl, rfl⟩, rfl, ?_, rfl⟩
    rintro rfl
    cases hk

/-- Settles O42: it is among what every instruction leaves alone. -/
theorem noInstructionMovesTheEngine : Obligations.NoInstructionMovesTheEngine := fun _ _ _ => exec_engineSame

end

section
/-! PROOFS. The machine's invariant, one conjunct at a time (10_state R28, R29, R31, R33, R34): what a step leaves in a
cycle is what Fetch, Execute, Advance and the drain test leave in turn. -/

namespace Sys2Proof.Machine

/-! The Memory Bank's canonical form (10_state R34). -/

theorem beginCycle_mem (s : State) : (beginCycle s).mem = s.mem := by
  obtain ⟨_, _, _, e⟩ := fetch_frame (clearPorts s)
  rw [beginCycle, e, clearPorts_mem]

theorem endCycle_mem (s : State) : (endCycle s).mem = s.mem := by
  obtain ⟨_, _, e⟩ := endCycle_frame s
  rw [e, advance_mem]

theorem exec_keeps_mem_wf {i : Instr} {s t : State} (hm : s.mem.wf = true) (ht : exec i s = .next t) :
    t.mem.wf = true := by
  rcases exec_shape i s with ⟨_, _, _, e⟩ | ⟨_, _, _, _, e, hwf⟩ | e | ⟨_, e⟩ <;> cases e.symm.trans ht
  case inr.inl => exact hwf hm
  all_goals exact hm

theorem step_keeps_mem_wf {s t : State} (hm : s.mem.wf = true) (ht : step s = .next t) : t.mem.wf = true := by
  cases stepped_of_step ht with
  | reset => exact Memory.wf_reset
  | idle => exact hm
  | emptyCycle => rwa [endCycle_mem, beginCycle_mem]
  | cycle _ _ hu =>
    have hm' := exec_keeps_mem_wf (by rwa [beginCycle_mem]) hu
    exact hm'

/-! The fetch state (10_state R29, R31): slot 0 empty and `pc` in 0..N. -/

theorem step_keeps_fetch_bounds {s t : State} (h0 : s.slots[0] = none) (hpc : s.pc.toNat ≤ s.imem.length)
    (ht : step s = .next t) : t.slots[0] = none ∧ t.pc.toNat ≤ t.imem.length := by
  obtain ⟨himem, _⟩ := noStepChangesTheProgram s t ht
  have hcycle : Cycling s → t.slots[0] = none ∧ t.pc.toNat ≤ t.imem.length := fun hc => by
    obtain ⟨hslots, _, _⟩ := shiftOf_of_step hc ht
    obtain ⟨_, hpc'⟩ := step_fetches hc ht h0 hpc
    exact ⟨by simp [hslots], by rw [hpc', himem]; exact Nat.min_le_right _ _⟩
  cases stepped_of_step ht with
  | reset => exact ⟨reset_slots_get 0, Nat.zero_le _⟩
  | idle => exact ⟨h0, hpc⟩
  | emptyCycle hc => exact hcycle hc
  | cycle hc => exact hcycle hc

/-! The run and its stop reason (10_state R33). -/

/-- The engine runs exactly while no stop reason is recorded. -/
abbrev RunRecorded (s : State) : Prop := s.running = true ↔ s.stopReason = .running

theorem RunRecorded.of_stopped {s : State} (hr : s.running = false) (hs : s.stopReason ≠ .running) : RunRecorded s :=
  iff_of_false (ne_true_of_eq_false hr) hs

theorem RunRecorded.of_kept {s t : State} (h : RunRecorded s) (hr : t.running = s.running)
    (hs : t.stopReason = s.stopReason) : RunRecorded t := by
  rwa [RunRecorded, hr, hs]

theorem RunRecorded.beginCycle {s : State} (h : RunRecorded s) : RunRecorded (beginCycle s) :=
  h.of_kept (beginCycle_running s) (beginCycle_stopReason s)

theorem exec_keeps_runRecorded {i : Instr} {s t : State} (h : RunRecorded s) (ht : exec i s = .next t) :
    RunRecorded t := by
  cases exec_runAfter ht with
  | kept hr hs => exact h.of_kept hr hs
  | halted _ hr hs => exact .of_stopped hr (by rw [hs]; nofun)
  | unknownOpcode _ hr hs => exact .of_stopped hr (by rw [hs]; nofun)
  | badRegister _ _ hr hs => exact .of_stopped hr (by rw [hs]; nofun)

theorem step_keeps_runRecorded {s t : State} (h : RunRecorded s) (ht : step s = .next t) : RunRecorded t := by
  cases stepped_of_step ht with
  | reset => exact iff_of_true rfl rfl
  | idle => exact h
  | emptyCycle =>
    rcases endCycle_run (beginCycle s) with ⟨hr, hs⟩ | ⟨hr, hs⟩
    · exact .of_stopped hr (by rw [hs]; nofun)
    · exact h.beginCycle.of_kept hr hs
  | cycle _ _ hu =>
    have h' := exec_keeps_runRecorded h.beginCycle hu
    exact h'

end Sys2Proof.Machine

open Sys2Proof Sys2Proof.Machine

/-- Settles O44: each conjunct is kept by a lemma of its own. -/
theorem stepKeepsInvariant : Obligations.StepKeepsInvariant := by
  rintro s t ⟨hmem, h0, hc, hpc, hrun⟩ ht
  obtain ⟨h0', hpc'⟩ := step_keeps_fetch_bounds h0 hpc ht
  exact ⟨step_keeps_mem_wf hmem ht, h0', step_keeps_carry_false hc ht, hpc', step_keeps_runRecorded hrun ht⟩

/-- Settles O43: a launch differs from reset in the program alone, which the invariant reads as a bound on `pc` = 0. -/
theorem resetMeetsInvariant : Obligations.ResetMeetsInvariant :=
  have hlaunch (prog : List Diw) : MachineInv (launch prog) :=
    ⟨Memory.wf_reset, reset_slots_get 0, rfl, Nat.zero_le _, iff_of_true rfl rfl⟩
  ⟨hlaunch [], hlaunch⟩

end

section
/-! SUPPORT. What an executed instruction does to the run, and that it does not look at the engine: a cycle has the
effect of its instruction alone (40_pipeline R101). -/

namespace Sys2Proof.Machine

/-! What an executed instruction does to the run, by whether it goes on. -/

/-- The reason under which an instruction that does not go on stops the run (40_pipeline R98). -/
def stopReasonOf (i : Instr) : StopReason :=
  if i = .halt then .halted else if i.opcodeKnown then .faultBadRegister else .faultUnknownOpcode

theorem goesOn_iff {i : Instr} : i.goesOn = true ↔ i.opcodeKnown = true ∧ i.regsValid = true ∧ i ≠ .halt := by
  simp [Instr.goesOn, and_assoc]

theorem exec_of_goesOn {i : Instr} {s t : State} (hi : i.goesOn = true) (ht : exec i s = .next t) :
    t.running = s.running := by
  obtain ⟨hk, hv, hh⟩ := goesOn_iff.mp hi
  cases exec_runAfter ht with
  | kept hr => exact hr
  | halted hi => exact absurd hi hh
  | unknownOpcode hu => cases hk.symm.trans hu
  | badRegister _ hbad => cases hv.symm.trans hbad

theorem exec_of_stopping {i : Instr} {s t : State} (hi : i.goesOn = false) (ht : exec i s = .next t) :
    t.running = false ∧ t.stopReason = stopReasonOf i := by
  by_cases hh : i = .halt
  · subst hh
    cases ht
    exact ⟨rfl, rfl⟩
  cases hk : i.opcodeKnown with
  | false =>
    cases (exec_of_opcodeUnknown s hk).symm.trans ht
    exact ⟨rfl, by simp [stopReasonOf, hh, hk, unknownOpcodeStop]⟩
  | true =>
    cases hb : firstBad i.regFields with
    | some f =>
      cases (exec_of_firstBad s hb).symm.trans ht
      exact ⟨rfl, by simp [stopReasonOf, hh, hk, badRegisterStop]⟩
    | none => cases hi.symm.trans (goesOn_iff.mpr ⟨hk, firstBad_regFields_eq_none.mp hb, hh⟩)

/-! Execution does not look at the engine: `pc`, the slots, the program and the ports. -/

/-- The architectural state, `running` and the stop reason of two states are the same. -/
abbrev RunSame (s t : State) : Prop := ArchSame s t ∧ s.running = t.running ∧ s.stopReason = t.stopReason

theorem RunSame.refl (s : State) : RunSame s s := ⟨⟨rfl, rfl, rfl, rfl, rfl, rfl⟩, rfl, rfl⟩

theorem RunSame.trans {s t u : State} : RunSame s t → RunSame t u → RunSame s u
  | ⟨⟨hx, hz, hnf, hc, hm, hg⟩, hr, hs⟩, ⟨⟨hx', hz', hnf', hc', hm', hg'⟩, hr', hs'⟩ =>
    ⟨⟨hx.trans hx', hz.trans hz', hnf.trans hnf', hc.trans hc', hm.trans hm', hg.trans hg'⟩,
      hr.trans hr', hs.trans hs'⟩

theorem beginCycle_runSame (s : State) : RunSame s (beginCycle s) := by
  obtain ⟨_, _, _, e⟩ := fetch_frame (clearPorts s)
  rw [beginCycle, e]
  exact .refl s

theorem advance_runSame (s : State) : RunSame s (advance s) := .refl s

theorem RunSame.running {s t : State} : RunSame s t → s.running = t.running
  | ⟨_, hr, _⟩ => hr

theorem RunSame.readReg {s t : State} (h : RunSame s t) (r : RegIx) : s.readReg r = t.readReg r := by
  obtain ⟨⟨hx, _⟩, _⟩ := h
  rw [State.readReg, State.readReg, hx]

theorem RunSame.writeResult {s t : State} (h : RunSame s t) (d : RegIx) (v : Word) :
    RunSame (writeResult s d v) (writeResult t d v) := by
  obtain ⟨⟨hx, _, _, _, hm, hg⟩, hrun⟩ := h
  exact ⟨⟨by simp [hx], rfl, rfl, rfl, hm, hg⟩, hrun⟩

theorem RunSame.writeMem {s t : State} (h : RunSame s t) (a : Nat) (v : Word) :
    RunSame (s.writeMem a v) (t.writeMem a v) := by
  obtain ⟨⟨hx, hz, hnf, hc, hm, hg⟩, hrun⟩ := h
  exact ⟨⟨hx, hz, hnf, hc, by simp [hm], hg⟩, hrun⟩

theorem RunSame.writePin {s t : State} (h : RunSame s t) (p : PinIx) (v : Word) :
    RunSame ((s.writePin p v).pinEvent p v) ((t.writePin p v).pinEvent p v) := by
  obtain ⟨⟨hx, hz, hnf, hc, hm, hg⟩, hrun⟩ := h
  exact ⟨⟨hx, hz, hnf, hc, hm, by simp [hg]⟩, hrun⟩

theorem RunSame.report {s t : State} (h : RunSame s t) (code : DiagCode) (info : Word) :
    RunSame (s.report code info) (t.report code info) := h

theorem RunSame.stop {s t : State} (reason : StopReason) : RunSame s t → RunSame (s.stop reason) (t.stop reason)
  | ⟨harch, _⟩ => ⟨harch, rfl, rfl⟩

theorem RunSame.raiseFatal {s t : State} (h : RunSame s t) (f : Fatal) : RunSame (raiseFatal s f) (raiseFatal t f) :=
  h.stop f.reason

theorem RunSame.gpioWrite {s t : State} (h : RunSame s t) (pin : Int) (v : Word) :
    RunSame (gpioWrite s pin v) (gpioWrite t pin v) := by
  unfold Machine.gpioWrite
  cases pinOf pin with
  | some p => exact h.writePin p v
  | none => exact h.report _ _

theorem RunSame.gpioRead {s t : State} (h : RunSame s t) (pin : Int) :
    (gpioRead s pin).1 = (gpioRead t pin).1 ∧ RunSame (gpioRead s pin).2 (gpioRead t pin).2 := by
  obtain ⟨⟨_, _, _, _, _, hg⟩, _⟩ := id h
  unfold Machine.gpioRead
  cases pinOf pin with
  | some p => exact ⟨by rw [hg], h⟩
  | none => exact ⟨rfl, h⟩

theorem RunSame.busWrite {s t : State} (h : RunSame s t) (a : BusAddr) (v : Word) :
    RunSame (busWrite s a v) (busWrite t a v) := by
  unfold Machine.busWrite
  split_ifs
  · exact h.writeMem _ v
  · exact h.gpioWrite _ v
  · exact h.report _ _

theorem RunSame.busRead {s t : State} (h : RunSame s t) (a : BusAddr) :
    (busRead s a).1 = (busRead t a).1 ∧ RunSame (busRead s a).2 (busRead t a).2 := by
  obtain ⟨⟨_, _, _, _, hm, _⟩, _⟩ := id h
  unfold Machine.busRead
  split_ifs
  · exact ⟨by rw [hm], h⟩
  · exact h.gpioRead _
  · exact ⟨rfl, h⟩

/-- Both outcomes are next states, which are the same but for the engine. -/
def OutcomeSame (o o' : Host.Outcome State Fault Refusal) : Prop := ∃ u v, o = .next u ∧ o' = .next v ∧ RunSame u v

theorem OutcomeSame.next {u v : State} (h : RunSame u v) : OutcomeSame (.next u) (.next v) := ⟨u, v, rfl, rfl, h⟩

theorem OutcomeSame.withReg {f : Field} {s t : State} (h : RunSame s t)
    {k k' : RegIx → Host.Outcome State Fault Refusal} (hk : ∀ r, OutcomeSame (k r) (k' r)) :
    OutcomeSame (withReg f s k) (withReg f t k') := by
  by_cases hf : f.toNat < 16
  · rw [withReg_of_lt _ _ hf, withReg_of_lt _ _ hf]
    exact hk _
  · rw [withReg_of_le _ _ (Nat.not_lt.mp hf), withReg_of_le _ _ (Nat.not_lt.mp hf)]
    exact .next (h.raiseFatal _)

/-- Every instruction does the same to two states that differ in the engine alone. -/
theorem exec_outcomeSame {s t : State} (i : Instr) (h : RunSame s t) : OutcomeSame (exec i s) (exec i t) := by
  cases i
  case loadImmediate op1 op2 => exact .withReg h fun d => .next (h.writeResult d op2)
  case loadRegister op1 op2 =>
    refine .withReg h fun d => .withReg h fun a => ?_
    obtain ⟨hval, hread⟩ := h.busRead (busAddrOf (t.readReg a))
    dsimp only
    rw [h.readReg a, hval]
    exact .next (hread.writeResult d _)
  case store op1 op2 =>
    refine .withReg h fun a => .withReg h fun v => ?_
    rw [h.readReg a, h.readReg v]
    exact .next (h.busWrite _ _)
  case add op1 op2 op3 =>
    refine .withReg h fun d => .withReg h fun a => .withReg h fun b => ?_
    rw [h.readReg a, h.readReg b]
    exact .next (h.writeResult d _)
  case mul op1 op2 op3 =>
    refine .withReg h fun d => .withReg h fun a => .withReg h fun b => ?_
    rw [h.readReg a, h.readReg b]
    exact .next (h.writeResult d _)
  case mac op1 op2 op3 =>
    refine .withReg h fun d => .withReg h fun a => .withReg h fun b => ?_
    rw [h.readReg d, h.readReg a, h.readReg b]
    exact .next (h.writeResult d _)
  case out op1 op2 =>
    refine .withReg h fun p => .withReg h fun v => ?_
    rw [h.readReg p, h.readReg v]
    exact .next (h.gpioWrite _ _)
  case halt => exact .next (h.stop .halted)
  case nop => exact .next (h.raiseFatal _)
  case invalid => exact .next (h.raiseFatal _)
  case unassigned9 => exact .next (h.raiseFatal _)
  case unassigned10to11 opcode => exact .next (h.raiseFatal _)
  case unassigned12to15 opcode => exact .next (h.raiseFatal _)

/-- A cycle does to the registers, flags, memory, pins and run what its instruction alone does to any state that has
them. -/
theorem step_runSame_exec {s t : State} {w : Diw} (hc : Cycling t) (h2 : t.slots[2] = some w) (h : RunSame s t) :
    ∃ u v, step t = .next u ∧ exec (decode w) s = .next v ∧ RunSame v u := by
  obtain ⟨v, u, hv, hu, hvu⟩ := exec_outcomeSame (decode w) (h.trans (beginCycle_runSame t))
  exact ⟨advance u, v, step_of_executed hc h2 hu, hv, hvu⟩

end Sys2Proof.Machine
end

section
/-! PROOFS. Whole runs (40_pipeline R97 to R103, 70_reset R178, R179): the state after every cycle of a run that has not
yet come to a stopping instruction, and from it the cycle in which the run ends. -/

namespace Sys2Proof.Machine

/-! The sequential reading of a program (40_pipeline R101). -/

theorem seqRun_cons {w : Diw} {s t : State} (ws : List Diw) (ht : exec (decode w) s = .next t) :
    seqRun (w :: ws) s = if t.running then seqRun ws t else t := by
  simp only [seqRun, ht]

theorem seqRun_append {ws : List Diw} {s : State} (vs : List Diw) (hr : (seqRun ws s).running = true) :
    seqRun (ws ++ vs) s = seqRun vs (seqRun ws s) := by
  induction ws generalizing s with
  | nil => rfl
  | cons w ws ih =>
    obtain ⟨t, ht⟩ := exec_next (decode w) s
    rw [List.cons_append, seqRun_cons _ ht]
    rw [seqRun_cons _ ht] at hr ⊢
    by_cases htr : t.running = true
    · simp only [htr, if_true] at hr ⊢
      exact ih hr
    · rw [if_neg htr] at hr
      exact absurd hr htr

/-- While the first `h` instructions go on, the next one executes on the state they leave. -/
theorem seqRun_take_succ {prog : List Diw} {h : Nat} {w : Diw} {s v : State} (hw : prog[h]? = some w)
    (hr : (seqRun (prog.take h) s).running = true) (hv : exec (decode w) (seqRun (prog.take h) s) = .next v) :
    seqRun (prog.take (h + 1)) s = v := by
  rw [List.take_add_one, hw, Option.toList_some, seqRun_append _ hr, seqRun_cons _ hv]
  exact ite_self _

/-- An instruction that stops the engine ends the sequential run. -/
theorem seqRun_of_stopped {prog : List Diw} {h : Nat} {w : Diw} {s v : State} (hw : prog[h]? = some w)
    (hr : (seqRun (prog.take h) s).running = true) (hv : exec (decode w) (seqRun (prog.take h) s) = .next v)
    (hstop : v.running = false) : seqRun prog s = v := by
  have hsplit : prog = prog.take h ++ w :: prog.drop (h + 1) := by
    obtain ⟨hh, hget⟩ := List.getElem?_eq_some_iff.mp hw
    rw [← hget, List.cons_getElem_drop_succ, List.take_append_drop]
  rw [hsplit, seqRun_append _ hr, seqRun_cons _ hv, if_neg (ne_true_of_eq_false hstop)]

/-! The timeline, read as instructions (40_pipeline R99). -/

theorem slotAfter_add (prog : List Diw) (n j : Nat) : slotAfter prog (n + j) j = prog[n]? := by
  simp [slotAfter]

theorem slotAfter_of_lt {n j : Nat} (prog : List Diw) (h : n < j) : slotAfter prog n j = none :=
  if_neg (Nat.not_le.mpr h)

/-- Three cycles after the last fetch every slot is empty. -/
theorem slots_empty_of_afterCycles {n : Nat} {s : State} (ha : AfterCycles n s) (hn : s.imem.length + 3 ≤ n) :
    s.slots = #v[none, none, none, none] := by
  have hempty (j : Nat) (hj : j ≤ 3) : slotAfter s.imem n j = none := by
    rw [slotAfter, if_pos (by omega)]
    exact List.getElem?_eq_none (by omega)
  obtain ⟨_, h0, h1, h2, h3⟩ := ha
  ext1 i hi
  match i with
  | 0 => exact h0
  | 1 => exact h1.trans (hempty 1 (by omega))
  | 2 => exact h2.trans (hempty 2 (by omega))
  | 3 => exact h3.trans (hempty 3 (by omega))

/-! The run, cycle by cycle. -/

/-- `t` is the state of the launch `s` after `k` cycles of a run that has not ended: the engine is on its timeline, and
the first `k - 2` instructions have been executed, as the sequential reading executes them. -/
structure Underway (s : State) (k : Nat) (t : State) : Prop where
  cycling : Cycling t
  after : AfterCycles k t
  imem : t.imem = s.imem
  same : RunSame (seqRun (s.imem.take (k - 2)) s) t

theorem Underway.running {s t : State} {k : Nat} (hU : Underway s k t) : t.running = true := hU.cycling.running

theorem Underway.seqRun_running {s t : State} {k : Nat} (hU : Underway s k t) :
    (seqRun (s.imem.take (k - 2)) s).running = true := hU.same.running.trans hU.running

theorem underway_zero {s : State} : Launched s → Underway s 0 s
  | ⟨hc, ha⟩ => ⟨hc, ha, rfl, .refl s⟩

/-- A cycle that keeps the engine running keeps the run underway. -/
theorem Underway.succ {s t u : State} {k : Nat} (hU : Underway s k t) (hu : step t = .next u)
    (hr : u.running = true) (hsame : RunSame (seqRun (s.imem.take (k + 1 - 2)) s) u) : Underway s (k + 1) u := by
  obtain ⟨himem, hrst⟩ := noStepChangesTheProgram t u hu
  obtain ⟨hlow, _, hcap⟩ := hU.cycling
  exact ⟨⟨hrst.trans hlow, hr, by rwa [himem]⟩, afterCycles_succ hU.cycling hU.after hu, himem.trans hU.imem, hsame⟩

theorem Underway.slot2 {s t : State} {h : Nat} (hU : Underway s (h + 2) t) : t.slots[2] = s.imem[h]? := by
  rw [slot2_of_afterCycles hU.after, hU.imem]

/-- The first two cycles of a program fill the slots and execute nothing. -/
theorem Underway.fill {s t : State} {k : Nat} (hU : Underway s k t) (hk : k < 2) (hN : s.imem ≠ []) :
    ∃ u, step t = .next u ∧ Underway s (k + 1) u := by
  obtain ⟨hpc, _, h1, h2, _⟩ := hU.after
  rw [hU.imem] at hpc h1 h2
  have hpos : 0 < s.imem.length := List.length_pos_iff.mpr hN
  have hnot : ¬(t.imem.length ≤ t.pc.toNat ∧ t.slots[0] = none ∧ t.slots[1] = none) := by
    rintro ⟨hex, _, hs1⟩
    rw [hU.imem, hpc] at hex
    have hk1 : k = 0 + 1 := by omega
    rw [h1, hk1, slotAfter_add, List.getElem?_eq_none_iff] at hs1
    omega
  have hu := step_of_not_drained hU.cycling (h2.trans (slotAfter_of_lt _ hk)) hnot
  refine ⟨_, hu, hU.succ hu ((beginCycle_running t).trans hU.running) ?_⟩
  have htake : k + 1 - 2 = k - 2 := by omega
  rw [htake]
  exact hU.same.trans ((beginCycle_runSame t).trans (advance_runSame _))

/-- An instruction that goes on executes in its cycle, and the run goes on. -/
theorem Underway.goOn {s t : State} {h : Nat} {w : Diw} (hU : Underway s (h + 2) t) (hw : s.imem[h]? = some w)
    (hgo : (decode w).goesOn = true) : ∃ u, step t = .next u ∧ Underway s (h + 3) u := by
  obtain ⟨u, v, hu, hv, hvu⟩ := step_runSame_exec hU.cycling (hU.slot2.trans hw) hU.same
  have hvr : v.running = true := (exec_of_goesOn hgo hv).trans hU.seqRun_running
  have hrun : seqRun (s.imem.take (h + 1)) s = v := seqRun_take_succ hw hU.seqRun_running hv
  exact ⟨u, hu, hU.succ hu (hvu.running.symm.trans hvr) (hrun ▸ hvu)⟩

/-- An instruction that does not go on ends the run in its cycle (40_pipeline R102). -/
theorem Underway.stop {s t : State} {h : Nat} {w : Diw} (hU : Underway s (h + 2) t) (hw : s.imem[h]? = some w)
    (hstop : (decode w).goesOn = false) :
    ∃ u, step t = .next u ∧ u.running = false ∧ u.stopReason = stopReasonOf (decode w) ∧ u.imem = s.imem ∧
      AfterCycles (h + 3) u ∧ RunSame (seqRun s.imem s) u := by
  obtain ⟨u, v, hu, hv, hvu⟩ := step_runSame_exec hU.cycling (hU.slot2.trans hw) hU.same
  obtain ⟨hr, hs⟩ := exec_of_stopping hstop hv
  obtain ⟨himem, _⟩ := noStepChangesTheProgram t u hu
  obtain ⟨_, hr', hs'⟩ := id hvu
  have hrun : seqRun s.imem s = v := seqRun_of_stopped hw hU.seqRun_running hv hr
  exact ⟨u, hu, hr'.symm.trans hr, hs'.symm.trans hs, himem.trans hU.imem, afterCycles_succ hU.cycling hU.after hu,
    hrun ▸ hvu⟩

/-- How many cycles come before the one that drains, when no instruction stops the run (70_reset R178). -/
def cyclesToDrain (prog : List Diw) : Nat := if prog = [] then 0 else prog.length + 2

theorem cyclesToDrain_of_ne_nil {prog : List Diw} (h : prog ≠ []) : cyclesToDrain prog = prog.length + 2 := if_neg h

theorem take_cyclesToDrain (prog : List Diw) : prog.take (cyclesToDrain prog - 2) = prog := by
  by_cases h : prog = []
  · rw [h, List.take_nil]
  · rw [cyclesToDrain_of_ne_nil h, Nat.add_sub_cancel, List.take_length]

/-- Then nothing is left to fetch and slots 1 and 2 are empty. -/
theorem exhausted_of_cyclesToDrain (prog : List Diw) :
    prog.length ≤ min (cyclesToDrain prog) prog.length ∧ slotAfter prog (cyclesToDrain prog) 1 = none ∧
      slotAfter prog (cyclesToDrain prog) 2 = none := by
  by_cases h : prog = []
  · subst h
    exact ⟨Nat.zero_le _, rfl, rfl⟩
  · rw [cyclesToDrain_of_ne_nil h]
    refine ⟨by omega, (slotAfter_add prog (prog.length + 1) 1).trans ?_, (slotAfter_add prog prog.length 2).trans ?_⟩
    · exact List.getElem?_eq_none (Nat.le_succ _)
    · exact List.getElem?_eq_none le_rfl

/-- A run that no instruction has stopped drains when the program is exhausted (40_pipeline R97). -/
theorem Underway.drain {s t : State} (hU : Underway s (cyclesToDrain s.imem) t) :
    ∃ u, step t = .next u ∧ u.running = false ∧ u.stopReason = .drained ∧ u.imem = s.imem ∧
      AfterCycles (cyclesToDrain s.imem + 1) u ∧ (seqRun s.imem s).running = true ∧ ArchSame (seqRun s.imem s) u := by
  obtain ⟨hN, he1, he2⟩ := exhausted_of_cyclesToDrain s.imem
  obtain ⟨hpc, h0, h1, h2, _⟩ := hU.after
  rw [hU.imem] at hpc h1 h2
  have hu := step_of_drained hU.cycling (by rwa [hU.imem, hpc]) h0 (h1.trans he1) (h2.trans he2)
  obtain ⟨himem, _⟩ := noStepChangesTheProgram _ _ hu
  have hseq := hU.seqRun_running
  obtain ⟨harch, _⟩ := hU.same.trans (beginCycle_runSame t)
  rw [take_cyclesToDrain] at hseq harch
  exact ⟨_, hu, rfl, rfl, himem.trans hU.imem, afterCycles_succ hU.cycling hU.after hu, hseq, harch⟩

/-- The first `m` instructions go on. -/
abbrev GoesOnBefore (m : Nat) (prog : List Diw) : Prop :=
  ∀ k v, k < m → prog[k]? = some v → (decode v).goesOn = true

/-- One cycle more, of a run that has come neither to its drain nor to an instruction that stops it. -/
theorem Underway.next {s t : State} {k m : Nat} (hU : Underway s k t) (hm : GoesOnBefore m s.imem)
    (hk : k < cyclesToDrain s.imem) (hkm : k < m + 2) : ∃ u, step t = .next u ∧ Underway s (k + 1) u := by
  have hN : s.imem ≠ [] := fun h => by simp [cyclesToDrain, h] at hk
  rw [cyclesToDrain_of_ne_nil hN] at hk
  match k with
  | 0 => exact hU.fill (by omega) hN
  | 1 => exact hU.fill (by omega) hN
  | h + 2 =>
    have hw : s.imem[h]? = some s.imem[h] := List.getElem?_eq_getElem (by omega)
    exact hU.goOn hw (hm h _ (by omega) hw)

theorem runFor_snoc {s t u : State} {k : Nat} (ht : runFor k s = .next t) (hu : step t = .next u) :
    runFor (k + 1) s = .next u :=
  (runFor_add k 1 ht).trans (runFor_succ 0 hu)

/-- While the first `m` instructions go on, the run is underway up to cycle `m + 2`, unless it drains before. -/
theorem underway_of_goesOnBefore {s : State} {m k : Nat} (hl : Launched s) (hm : GoesOnBefore m s.imem)
    (hk : k ≤ cyclesToDrain s.imem) (hkm : k ≤ m + 2) : ∃ t, runFor k s = .next t ∧ Underway s k t := by
  induction k with
  | zero => exact ⟨s, rfl, underway_zero hl⟩
  | succ k ih =>
    obtain ⟨t, ht, hU⟩ := ih (Nat.le_of_succ_le hk) (Nat.le_of_succ_le hkm)
    obtain ⟨u, hu, hU'⟩ := hU.next hm hk hkm
    exact ⟨u, runFor_snoc ht hu, hU'⟩

/-- A run without a stopping instruction, up to its drain. -/
theorem run_drains {s : State} (hl : Launched s) (hgo : GoesOnBefore s.imem.length s.imem) :
    ∃ u, runFor (cyclesToDrain s.imem + 1) s = .next u ∧ u.running = false ∧ u.stopReason = .drained ∧
      u.imem = s.imem ∧ AfterCycles (cyclesToDrain s.imem + 1) u ∧ (seqRun s.imem s).running = true ∧
      ArchSame (seqRun s.imem s) u := by
  have hle : cyclesToDrain s.imem ≤ s.imem.length + 2 := by
    rw [cyclesToDrain]
    split <;> omega
  obtain ⟨t, ht, hU⟩ := underway_of_goesOnBefore hl hgo le_rfl hle
  obtain ⟨u, hu, hrest⟩ := hU.drain
  exact ⟨u, runFor_snoc ht hu, hrest⟩

/-- A run whose first stopping instruction has index `h`, up to its stop. -/
theorem run_stops {s : State} {h : Nat} {w : Diw} (hl : Launched s) (hgo : GoesOnBefore h s.imem)
    (hw : s.imem[h]? = some w) (hstop : (decode w).goesOn = false) :
    (∀ k, k < h + 3 → ∃ t, runFor k s = .next t ∧ t.running = true) ∧
    ∃ u, runFor (h + 3) s = .next u ∧ u.running = false ∧ u.stopReason = stopReasonOf (decode w) ∧ u.imem = s.imem ∧
      AfterCycles (h + 3) u ∧ RunSame (seqRun s.imem s) u := by
  obtain ⟨hlt, _⟩ := List.getElem?_eq_some_iff.mp hw
  have hdrain : cyclesToDrain s.imem = s.imem.length + 2 :=
    cyclesToDrain_of_ne_nil (List.length_pos_iff.mp (Nat.zero_lt_of_lt hlt))
  have hunderway (k : Nat) (hk : k < h + 3) := underway_of_goesOnBefore (k := k) hl hgo (by omega) (by omega)
  refine ⟨fun k hk => ?_, ?_⟩
  · obtain ⟨t, ht, hU⟩ := hunderway k hk
    exact ⟨t, ht, hU.running⟩
  · obtain ⟨t, ht, hU⟩ := hunderway (h + 2) (by omega)
    obtain ⟨u, hu, hrest⟩ := hU.stop hw hstop
    exact ⟨u, runFor_snoc ht hu, hrest⟩

/-- HALT is a clean end, every other stop of an instruction a faulted one (40_pipeline R103). -/
theorem end_of_stopReasonOf {i : Instr} {t : State} (hr : t.running = false) (hs : t.stopReason = stopReasonOf i) :
    if i = .halt then t.CleanEnd else t.FaultedEnd := by
  rw [State.CleanEnd, State.FaultedEnd, hs, stopReasonOf]
  split_ifs
  · exact ⟨hr, .inl rfl⟩
  · exact ⟨hr, .inr rfl⟩
  · exact ⟨hr, .inl rfl⟩

/-- The index of the first instruction that does not go on, or N. -/
def firstStop (prog : List Diw) : Nat := prog.findIdx fun w => !(decode w).goesOn

theorem goesOnBefore_firstStop (prog : List Diw) : GoesOnBefore (firstStop prog) prog := by
  intro k v hk hv
  obtain ⟨_, rfl⟩ := List.getElem?_eq_some_iff.mp hv
  simpa using List.not_of_lt_findIdx hk

theorem goesOn_firstStop {prog : List Diw} (h : firstStop prog < prog.length) :
    (decode prog[firstStop prog]).goesOn = false := by
  rw [← Bool.not_eq_true']
  exact List.findIdx_getElem (w := h)

end Sys2Proof.Machine

open Sys2Proof Sys2Proof.Machine

/-- Settles O45: Execute takes the word that stood in slot 2, where the timeline has instruction `n - 2`. -/
theorem cycleKeepsTheTimeline : Obligations.CycleKeepsTheTimeline := by
  intro n s t hc ha ht
  obtain ⟨_, _, _, h2, _⟩ := id ha
  refine ⟨afterCycles_succ hc ha ht, ?_⟩
  rw [executing_beginCycle, h2, slotAfter]
  split <;> rfl

/-- Settles O46: the run is underway for N + 2 cycles, or none for the empty program, and drains in the next. -/
theorem fillDrainLaw : Obligations.FillDrainLaw := by
  intro s hl
  refine ⟨fun hN hgo => ?_, fun hN => ?_⟩
  · have hdrain : cyclesToDrain s.imem = s.imem.length + 2 := cyclesToDrain_of_ne_nil (List.length_pos_iff.mp hN)
    have hgo' : GoesOnBefore s.imem.length s.imem := fun k v _ hv => hgo v (List.mem_of_getElem? hv)
    refine ⟨fun k hk => ?_, ?_⟩
    · obtain ⟨t, ht, hU⟩ := underway_of_goesOnBefore (k := k) hl hgo' (by omega) (by omega)
      exact ⟨t, ht, hU.running⟩
    · obtain ⟨t, ht, hr, hs, himem, ha, _⟩ := run_drains hl hgo'
      rw [hdrain] at ht ha
      obtain ⟨hpc, _⟩ := id ha
      rw [himem] at hpc
      exact ⟨t, ht, hr, hs, by omega, slots_empty_of_afterCycles ha (by rw [himem])⟩
  · obtain ⟨t, ht, hr, hs, himem, ⟨hpc, _⟩, _⟩ := run_drains hl (by simp [GoesOnBefore, hN])
    have hdrain : cyclesToDrain s.imem = 0 := if_pos hN
    rw [himem, hN, List.length_nil, Nat.min_zero] at hpc
    rw [hdrain] at ht
    exact ⟨t, ht, hr, hs, BitVec.eq_of_toNat_eq hpc⟩

/-- Settles O47: the run is underway until instruction `h` executes, which the timeline puts in cycle `h + 3`. -/
theorem stopHappensInCycleHPlus3 : Obligations.StopHappensInCycleHPlus3 := by
  intro s h w hl hw hstop hgo
  obtain ⟨hbefore, t, ht, hr, hs, himem, ⟨hpc, h0, h1, h2, h3⟩, _⟩ := run_stops hl hgo hw hstop
  rw [himem] at hpc h1 h2 h3
  exact ⟨hbefore, t, ht, hr, hs, h3.trans ((slotAfter_add _ h 3).trans hw), h2.trans (slotAfter_add _ (h + 1) 2),
    h1.trans (slotAfter_add _ (h + 2) 1), h0, hpc, end_of_stopReasonOf hr hs⟩

/-- Settles O48: the run stops at the first instruction that does not go on, or drains when there is none, and either
way has executed what the sequential reading executes. -/
theorem pipelineRefinesSequentialExecution : Obligations.PipelineRefinesSequentialExecution := by
  intro s hl
  have hgo := goesOnBefore_firstStop s.imem
  by_cases hlt : firstStop s.imem < s.imem.length
  · obtain ⟨_, t, ht, hr, hs, _, _, harch, hr', hs'⟩ :=
      run_stops hl hgo (List.getElem?_eq_getElem hlt) (goesOn_firstStop hlt)
    have hN : s.imem ≠ [] := List.length_pos_iff.mp (Nat.zero_lt_of_lt hlt)
    refine ⟨_, t, by omega, ?_, ht, hr, harch, ?_⟩
    · rw [if_neg hN]
      omega
    · rw [if_neg (ne_true_of_eq_false (hr'.trans hr)), hs']
  · have hall : firstStop s.imem = s.imem.length := Nat.le_antisymm List.findIdx_le_length (Nat.not_lt.mp hlt)
    obtain ⟨t, ht, hr, hs, _, _, hseq, harch⟩ := run_drains hl (hall ▸ hgo)
    refine ⟨_, t, Nat.le_add_left 1 _, ?_, ht, hr, harch, ?_⟩
    · rw [cyclesToDrain]
      split <;> omega
    · rw [if_pos hseq, hs]

end
